-- ==== Sys2Proof/Word.lean ====
section
/-! DEFINITION. The unsigned word types of the spec (00_scope.md R4; no operation sign-extends). -/

namespace Sys2Proof

/-- A byte of a link word or of a CRC byte sequence (R52, R53), and the width of OP, FCODE and FOP. -/
abbrev Byte := BitVec 8

/-- `u16`: a shared-buffer word, a link word, a CRC (R51). -/
abbrev Word := BitVec 16

/-- `u32`: counters, indices, times, and the registers of the read port (R45). -/
abbrev U32 := BitVec 32

/-- `u64`: a command word or an event label in the `CMD64` layout (R70, R76). -/
abbrev CmdWord := BitVec 64

end Sys2Proof
end

