-- ==== Sys2Proof/Syntax.lean ====
section
/-! DEFINITION. The steps of the block as syntax: one constructor for each row of
spec/opcode_table.json (30_encoding.md R72, R76). -/

namespace Sys2Proof

/-- A command (OP below 0x80) or an event label (OP 0x80 and above). Addresses, indices and counts are
numbers, since the rules compare and add them without wrapping (R106 "computed without overflow");
that they fit their field is `Instr.wf` (R78). Data values and times have their own width (R77, R184). -/
inductive Instr where
  /-- NOP (R83). -/
  | nop
  /-- CRC.INIT (R101). -/
  | crcInit
  /-- CRC.COMPUTE a, n: first word address and word count (R106). -/
  | crcCompute (a n : Nat)
  /-- CRC.STAMP k: chunk index (R107). -/
  | crcStamp (k : Nat)
  /-- CRC.CHECK k: chunk index (R108). -/
  | crcCheck (k : Nat)
  /-- FX.REFRESH (R144). -/
  | fxRefresh
  /-- FX.TRIGGER (R136). -/
  | fxTrigger
  /-- TMR.START t, p: slot and period in base time units (R184). -/
  | tmrStart (t : Nat) (p : U32)
  /-- TMR.STOP t (R185). -/
  | tmrStop (t : Nat)
  /-- TMR.RESTART t (R186). -/
  | tmrRestart (t : Nat)
  /-- TMR.POP (R187). -/
  | tmrPop
  /-- BUF.WRITE a, v: word address and data word (R145). -/
  | bufWrite (a : Nat) (v : Word)
  /-- BUF.READ a (R146). -/
  | bufRead (a : Nat)
  /-- TICK (R182). -/
  | tick
  /-- CS.PIN L: the new pin level, `true` is 1 = high = deselected (R131). -/
  | csPin (level : Bool)
  /-- CS.GLITCH (R132). -/
  | csGlitch
  /-- CS.ISR (R133). -/
  | csIsr
  /-- LINK.WORD p: the word the peer shifts in (R138). -/
  | linkWord (p : Word)
  /-- DMA.TX_STEP (R139). -/
  | dmaTxStep
  /-- DMA.RX_STEP (R140). -/
  | dmaRxStep
  /-- DMA.TX_ISR (R141). -/
  | dmaTxIsr
  /-- DMA.RX_ISR (R142). -/
  | dmaRxIsr
  /-- REG.READ r: register address (R45). -/
  | regRead (r : Nat)
  deriving DecidableEq, Repr

end Sys2Proof
end

