-- ==== Sys2Proof/WellFormed.lean ====
section
/-! DEFINITION. Which instructions have an encoding: every operand fits its field (30_encoding.md R70,
R78: an operand that does not fit is refused, never truncated). -/

namespace Sys2Proof

/-- The operand fits field A, bits 55:40 of the word (R70). -/
def fitsA (x : Nat) : Bool := decide (x < 2 ^ 16)

/-- The operand fits field B, bits 31:0 of the word (R70). -/
def fitsB (x : Nat) : Bool := decide (x < 2 ^ 32)

/-- R78's operand check. Operands whose type has the field's width (period, data word, level) always fit. -/
def Instr.wf : Instr → Bool
  | .nop => true
  | .crcInit => true
  | .crcCompute a n => fitsA a && fitsB n
  | .crcStamp k => fitsA k
  | .crcCheck k => fitsA k
  | .fxRefresh => true
  | .fxTrigger => true
  | .tmrStart t _ => fitsA t
  | .tmrStop t => fitsA t
  | .tmrRestart t => fitsA t
  | .tmrPop => true
  | .bufWrite a _ => fitsA a
  | .bufRead a => fitsA a
  | .tick => true
  | .csPin _ => true
  | .csGlitch => true
  | .csIsr => true
  | .linkWord _ => true
  | .dmaTxStep => true
  | .dmaRxStep => true
  | .dmaTxIsr => true
  | .dmaRxIsr => true
  | .regRead r => fitsB r

end Sys2Proof
end

