-- ==== Sys2Proof/Decode.lean ====
section
/-! DEFINITION. The `CMD64` word (30_encoding.md R70 to R77): its fields, the decoder, total on all 64-bit
words and rejecting by name, and the encoder. -/

namespace Sys2Proof

/-- What a 64-bit word stands for (R73, R74, R76). -/
inductive Decoded where
  /-- A command or label with its zero fields clear. -/
  | instr (i : Instr)
  /-- OP is in neither table (R73, R75, R76). -/
  | illegalOpcode
  /-- OP is in a table and a must-be-zero bit of its row is 1 (R74, R76). -/
  | reservedField
  deriving DecidableEq, Repr

/-! ### Fields (R70, R71) -/

/-- OP, bits 63:56. -/
def opField (w : CmdWord) : Byte := w.extractLsb' 56 8

/-- A, bits 55:40, unsigned. -/
def aField (w : CmdWord) : Nat := (w.extractLsb' 40 16).toNat

/-- RSV, bits 39:32. -/
def rsvField (w : CmdWord) : Byte := w.extractLsb' 32 8

/-- B, bits 31:0, unsigned. -/
def bField (w : CmdWord) : U32 := w.extractLsb' 0 32

/-- B[15:0], the value of a command or label whose operand is a data word (R71, R77). -/
def bLow (w : CmdWord) : Word := w.extractLsb' 0 16

/-- B[31:16]. -/
def bHigh (w : CmdWord) : Word := w.extractLsb' 16 16

/-- The word with these fields and RSV zero. -/
def pack (op : Byte) (a : BitVec 16) (b : U32) : CmdWord := op ++ a ++ (0 : Byte) ++ b

/-! ### Opcodes (R72, R76) -/

/-- OP of each step: the first column of the tables of R72 and R76. -/
def opcode : Instr → Byte
  | .nop => 0x00
  | .crcInit => 0x01
  | .crcCompute _ _ => 0x02
  | .crcStamp _ => 0x03
  | .crcCheck _ => 0x04
  | .fxRefresh => 0x10
  | .fxTrigger => 0x11
  | .tmrStart _ _ => 0x20
  | .tmrStop _ => 0x21
  | .tmrRestart _ => 0x22
  | .tmrPop => 0x23
  | .bufWrite _ _ => 0x30
  | .bufRead _ => 0x31
  | .tick => 0x80
  | .csPin _ => 0x81
  | .csGlitch => 0x82
  | .csIsr => 0x83
  | .linkWord _ => 0x84
  | .dmaTxStep => 0x85
  | .dmaRxStep => 0x86
  | .dmaTxIsr => 0x87
  | .dmaRxIsr => 0x88
  | .regRead _ => 0x90

/-- OP at or above 0x80: the event label space (R75). -/
def isLabelOp (op : Byte) : Bool := decide (0x80 ≤ op.toNat)

/-- The step is an event label and not a command (R76). -/
def isEvent (i : Instr) : Bool := isLabelOp (opcode i)

/-! ### Decoding -/

/-- A row's zero fields are checked after its OP has selected it (R73, R74). -/
def strict (zero : Bool) (i : Instr) : Decoded := if zero then .instr i else .reservedField

/-- The rows of R72 and R76; each row's Bool is the clause "must be zero" of its table. -/
def decode (w : CmdWord) : Decoded :=
  let a := aField w
  let b := bField w
  let rsv0 := rsvField w == 0
  let a0 := a == 0
  let b0 := b == 0
  let bHigh0 := bHigh w == 0
  match (opField w).toNat with
  | 0x00 => strict (a0 && rsv0 && b0) .nop
  | 0x01 => strict (a0 && rsv0 && b0) .crcInit
  | 0x02 => strict rsv0 (.crcCompute a b.toNat)
  | 0x03 => strict (rsv0 && b0) (.crcStamp a)
  | 0x04 => strict (rsv0 && b0) (.crcCheck a)
  | 0x10 => strict (a0 && rsv0 && b0) .fxRefresh
  | 0x11 => strict (a0 && rsv0 && b0) .fxTrigger
  | 0x20 => strict rsv0 (.tmrStart a b)
  | 0x21 => strict (rsv0 && b0) (.tmrStop a)
  | 0x22 => strict (rsv0 && b0) (.tmrRestart a)
  | 0x23 => strict (a0 && rsv0 && b0) .tmrPop
  | 0x30 => strict (rsv0 && bHigh0) (.bufWrite a (bLow w))
  | 0x31 => strict (rsv0 && b0) (.bufRead a)
  | 0x80 => strict (a0 && rsv0 && b0) .tick
  | 0x81 => strict (a0 && rsv0 && decide (b.toNat < 2)) (.csPin (b.getLsbD 0))
  | 0x82 => strict (a0 && rsv0 && b0) .csGlitch
  | 0x83 => strict (a0 && rsv0 && b0) .csIsr
  | 0x84 => strict (a0 && rsv0 && bHigh0) (.linkWord (bLow w))
  | 0x85 => strict (a0 && rsv0 && b0) .dmaTxStep
  | 0x86 => strict (a0 && rsv0 && b0) .dmaRxStep
  | 0x87 => strict (a0 && rsv0 && b0) .dmaTxIsr
  | 0x88 => strict (a0 && rsv0 && b0) .dmaRxIsr
  | 0x90 => strict (a0 && rsv0) (.regRead b.toNat)
  | _ => .illegalOpcode

/-- The instruction of a table row's word (bit 0 is bit 0 of the 64-bit word; bits at and above
`nbits` are 0). A `CMD64` word is one unit of the port, so no byte order enters (R54, R70). -/
def decodeTableWord (nbits w : Nat) : Option Instr :=
  match decode (BitVec.ofNat 64 (w % 2 ^ nbits)) with
  | .instr i => some i
  | .illegalOpcode => none
  | .reservedField => none

/-! ### Encoding -/

/-- Field A of a step (R72, R76). -/
def operandA : Instr → Nat
  | .crcCompute a _ => a
  | .crcStamp k => k
  | .crcCheck k => k
  | .tmrStart t _ => t
  | .tmrStop t => t
  | .tmrRestart t => t
  | .bufWrite a _ => a
  | .bufRead a => a
  | .nop | .crcInit | .fxRefresh | .fxTrigger | .tmrPop | .tick | .csPin _ | .csGlitch | .csIsr
  | .linkWord _ | .dmaTxStep | .dmaRxStep | .dmaTxIsr | .dmaRxIsr | .regRead _ => 0

/-- Field B of a step (R72, R76). -/
def operandB : Instr → U32
  | .crcCompute _ n => BitVec.ofNat 32 n
  | .tmrStart _ p => p
  | .bufWrite _ v => v.setWidth 32
  | .csPin level => (BitVec.ofBool level).setWidth 32
  | .linkWord p => p.setWidth 32
  | .regRead r => BitVec.ofNat 32 r
  | .nop | .crcInit | .crcStamp _ | .crcCheck _ | .fxRefresh | .fxTrigger | .tmrStop _
  | .tmrRestart _ | .tmrPop | .bufRead _ | .tick | .csGlitch | .csIsr | .dmaTxStep | .dmaRxStep
  | .dmaTxIsr | .dmaRxIsr => 0

/-- The word of a well-formed instruction (R70 to R72, R76). -/
def encode (i : Instr) : CmdWord := pack (opcode i) (BitVec.ofNat 16 (operandA i)) (operandB i)

end Sys2Proof
end

