-- ==== Sys2Proof/Config.lean ====
section
/-! DEFINITION. The build-time parameters of 00_scope.md section 3. Every field is an argument of the
model; whether a configuration is legal (R3) is `Machine.configValid`. -/

namespace Sys2Proof

/-- ROLE: the SPI slave or the SPI master (00_scope.md section 3). -/
inductive Role where
  | worker
  | controller
  deriving DecidableEq, Repr

/-- The configuration of a build. None of it changes at run time (R20). Sizes and counts are exact
numbers, so that R3's bounds are stated without wrapping. -/
structure Config where
  /-- ROLE. -/
  role : Role
  /-- `W`, WORKER_COUNT. -/
  workers : Nat
  /-- `C`, CHUNK_SIZE in words, header included. -/
  chunk : Nat
  /-- WORKER_ID, this node's slot in the worker role. -/
  workerId : Nat
  /-- XFER_LEN, words each DMA channel moves per armed transfer. -/
  xferLen : Nat
  /-- TX_BASE, the first buffer word the transmit channel reads. -/
  txBase : Nat
  /-- RX_BASE, the first buffer word the receive channel writes. -/
  rxBase : Nat
  /-- TXFIFO_DEPTH (OPEN). -/
  txFifoDepth : Nat
  /-- RXFIFO_DEPTH (OPEN). -/
  rxFifoDepth : Nat
  /-- `G`, the tick granularity in base time units. -/
  gran : Nat
  /-- `T`, TIMER_COUNT (OPEN). -/
  timerCount : Nat
  /-- CS_PIN_INIT, the chip-select level at reset in the worker role; `true` is 1. -/
  csPinInit : Bool
  deriving DecidableEq, Repr

/-- The configuration `State.reset` is built with (log entry 2): the examples and defaults of
00_scope.md section 3 (W = 2, C = 32, G = 100, XFER_LEN = W·C, TX_BASE = 0, RX_BASE = W·C,
CS_PIN_INIT = 1) in the worker role. DESIGN CHOICE: the role, WORKER_ID, the FIFO depths and T, for
which the spec has no default; the depths and T are those of 95_test_vectors.md. -/
def Config.standard : Config where
  role := .worker
  workers := 2
  chunk := 32
  workerId := 0
  xferLen := 64
  txBase := 0
  rxBase := 64
  txFifoDepth := 2
  rxFifoDepth := 2
  gran := 100
  timerCount := 4
  csPinInit := true

end Sys2Proof
end

