-- ==== Sys2Proof/Machine/State.lean ====
section
/-! DEFINITION. The state of SDPE-FXT as plain data: every element of 10_state.md R22 to R44 and the
shared buffer of 20_memory.md R50, the reasons a step can stop, and the reset state of
70_reset_and_hazards.md R260. ⊥ ("unwritten", R5) is `none`. -/

namespace Sys2Proof.Machine

/-- The state of a DMA channel (R30, R31). -/
inductive Chan where
  | idle
  | run
  | done
  deriving DecidableEq, Repr

/-- The state of a timer slot (R39). -/
inductive TimerState where
  | idle
  | armed
  | fired
  deriving DecidableEq, Repr

/-- One timer slot: TST, REM and RLD of R39. -/
structure Slot where
  /-- TST[t]. -/
  st : TimerState
  /-- REM[t], `none` for ⊥. -/
  rem : Option U32
  /-- RLD[t], `none` for ⊥. -/
  rld : Option U32
  deriving DecidableEq, Repr

/-- A slot at reset (R39, R260). -/
def Slot.unused : Slot := ⟨.idle, none, none⟩

/-- A diagnostic record (R36, R151). -/
inductive Diag where
  /-- OVERRUN (R134). -/
  | overrun
  /-- CRC_MISMATCH(s) for worker slot s (R143). -/
  | crcMismatch (s : Nat)
  /-- FRAME_CLOSED(txBytes, rxBytes) (R135). -/
  | frameClosed (txBytes rxBytes : U32)
  deriving DecidableEq, Repr

/-- What the world outside does next: the host writes a command word to the command port (R81), a step
named by an event label is taken (R76), or the block is reset from outside (R261). -/
inductive Stimulus where
  | command (w : CmdWord)
  | label (w : CmdWord)
  | reset
  deriving DecidableEq, Repr

/-- The shared buffer (R50): the written words as (word address, word) pairs, addresses strictly
rising; a word not listed is ⊥ (R68). The unit is the 16-bit word, since the buffer has no byte
address (R51; log entry 8). -/
abbrev Memory := List (Nat × Word)

/-- The state. Field names follow the spec's; `cfg`, `inputs` and `readOut` are the model's own. -/
structure State where
  /-- The configuration, a parameter of every step that never changes (R20; log entry 1). -/
  cfg : Config
  /-- The model's own: the stimuli still to be taken, in the order taken (R64, R231; log entry 3). -/
  inputs : List Stimulus
  /-- The model's own: what the last register read returned, `none` if no value (R45; log entry 6). -/
  readOut : Option U32
  /-- TABLE_VALID (R22). -/
  tableValid : Bool
  /-- CRC_RESULT (R23). -/
  crcResult : Option Word
  /-- CRC_MATCH (R24). -/
  crcMatch : Option Bool
  /-- The shared buffer (R25, R50). -/
  buf : Memory
  /-- CS_PIN, `true` is 1 = high = deselected (R26). -/
  csPin : Bool
  /-- CS_IRQ (R26). -/
  csIrq : Bool
  /-- LAST_LEVEL (R27). -/
  lastLevel : Bool
  /-- PEND_TX (R28). -/
  pendTx : Bool
  /-- PEND_RX (R28). -/
  pendRx : Bool
  /-- RX_EN (R29). -/
  rxEn : Bool
  /-- TXCH (R30). -/
  txCh : Chan
  /-- TX_IDX (R30). -/
  txIdx : U32
  /-- RXCH (R31). -/
  rxCh : Chan
  /-- RX_IDX (R31). -/
  rxIdx : U32
  /-- TXFIFO, head first; a ⊥ word is `none` (R32). -/
  txFifo : List (Option Word)
  /-- RXFIFO, head first (R32). -/
  rxFifo : List Word
  /-- CTL_LEFT (R33). -/
  ctlLeft : U32
  /-- OVR_CNT (R34). -/
  ovrCnt : U32
  /-- MIS_CNT (R34). -/
  misCnt : U32
  /-- MIS_MASK, bit s for worker slot s; bits W and above stay 0 (R35; log entry 11). -/
  misMask : U32
  /-- TX_BYTES (R35). -/
  txBytes : U32
  /-- RX_BYTES (R35). -/
  rxBytes : U32
  /-- DIAG, oldest first (R36). -/
  diag : List Diag
  /-- WIRE_OUT, oldest first; an unspecified word is `none` (R36). -/
  wireOut : List (Option Word)
  /-- LIVE (R37). -/
  live : Bool
  /-- NOW (R38). -/
  now : U32
  /-- The T timer slots, slot 0 first (R39). -/
  timers : List Slot
  /-- TLIST (R40). -/
  tlist : List Nat
  /-- EXPQ (R41). -/
  expq : List Nat
  /-- RD_DATA (R43). -/
  rdData : Option Word
  /-- POP_RESULT (R43). -/
  popResult : Option U32
  /-- FAULTED (R44). -/
  faulted : Bool
  /-- FCODE (R44). -/
  fcode : Byte
  /-- FOP (R44). -/
  fop : Byte
  /-- FARG (R44). -/
  farg : Word
  deriving DecidableEq, Repr

/-- The stops of the model. The block's own faults are none of these: they are latched and the machine
goes on (R224). Both stand for states the invariants of the spec exclude (log entry 10). -/
inductive Fault where
  /-- Raised by DMA.TX_STEP and DMA.RX_STEP when TX_BASE + TX_IDX or RX_BASE + RX_IDX is no buffer
  address; R3, R30 and R31 exclude it (R55). Safe: the model stops. -/
  | dmaOutsideBuffer (a : Nat)
  /-- Raised by TICK when the REM of a slot in TLIST is ⊥; R42 excludes it. Safe: the model stops. -/
  | armedTimerUnwritten
  deriving DecidableEq, Repr

/-- What the model refuses because it is no behaviour of the hardware (R238). -/
inductive Refusal where
  /-- Raised by `exec` for an instruction without a meaning yet. Safe: nothing is claimed of it. -/
  | notModelled (mnemonic : String)
  /-- Raised by `step` when the configuration breaks R3. Safe: such a block does not exist. -/
  | badConfig
  /-- Raised by `step` for a label outside R76 or with a must-be-zero bit set. Safe (R238). -/
  | badLabel
  /-- Raised by the meaning of an event whose step is not enabled (R76, R229), and by every event but
  REG.READ while FAULTED = 1 (R224). Safe (R238). -/
  | notEnabled
  deriving DecidableEq, Repr

/-- The reset state of a block with configuration `c` (R260); nothing of the state before survives. -/
def State.resetWith (c : Config) : State where
  cfg := c
  inputs := []
  readOut := none
  tableValid := false
  crcResult := none
  crcMatch := none
  buf := []
  csPin := match c.role with
    | .worker => c.csPinInit
    | .controller => true
  csIrq := false
  lastLevel := true
  pendTx := false
  pendRx := false
  rxEn := false
  txCh := .idle
  txIdx := 0
  rxCh := .idle
  rxIdx := 0
  txFifo := []
  rxFifo := []
  ctlLeft := 0
  ovrCnt := 0
  misCnt := 0
  misMask := 0
  txBytes := 0
  rxBytes := 0
  diag := []
  wireOut := []
  live := false
  now := 0
  timers := List.replicate c.timerCount Slot.unused
  tlist := []
  expq := []
  rdData := none
  popResult := none
  faulted := false
  fcode := 0
  fop := 0
  farg := 0

/-- The machine right after reset (R260), built with `Config.standard` (log entry 2). -/
def State.reset : State := State.resetWith Config.standard

end Sys2Proof.Machine
end

