-- ==== Sys2Proof/Machine/Ops.lean ====
section
/-! DEFINITION. The named operations every rule is written with: the configuration rule R3 and the
addresses it gives (R56, R59, R60), the shared buffer (R57, R58), the timer slots and lists (R39,
R181), the diagnostic trace (R5), and fault entry (R224) with the two gates commands and events go
through (R81, R229). -/

namespace Sys2Proof.Machine

/-- The outcome of a step of this machine. -/
abbrev Out := Host.Outcome State Fault Refusal

/-! ### Configuration (R3, R6, R56, R59, R60) -/

/-- BUF_WORDS = 2·W·C (R3, R50). -/
def bufWords (c : Config) : Nat := 2 * c.workers * c.chunk

/-- R3: a model refuses a configuration that breaks any of these. -/
def configValid (c : Config) : Bool :=
  decide (1 ≤ c.workers ∧ c.workers ≤ 32 ∧ 1 ≤ c.chunk ∧ bufWords c ≤ 65536 ∧
    (c.role = .worker → c.workerId < c.workers) ∧
    1 ≤ c.xferLen ∧ c.txBase + c.xferLen ≤ bufWords c ∧ c.rxBase + c.xferLen ≤ bufWords c ∧
    1 ≤ c.txFifoDepth ∧ 1 ≤ c.rxFifoDepth ∧ 1 ≤ c.gran ∧ c.gran ≤ 2 ^ 32 - 1 ∧
    1 ≤ c.timerCount ∧ c.timerCount ≤ 65535)

/-- H, words of chunk header (R6). -/
def headerWords : Nat := 1

/-- N, payload words of a chunk (R6). -/
def payloadWords (c : Config) : Nat := c.chunk - headerWords

/-- MeasChunk(w) (R56). -/
def measChunk (c : Config) (w : Nat) : Nat :=
  match c.role with
  | .worker => w
  | .controller => c.workers + w

/-- SetChunk(w) (R56). -/
def setChunk (c : Config) (w : Nat) : Nat :=
  match c.role with
  | .worker => c.workers + w
  | .controller => w

/-- The word address of chunk k's header (R56). -/
def chunkBase (c : Config) (k : Nat) : Nat := k * c.chunk

/-- MeasPtr(w) (R56). -/
def measPtr (c : Config) (w : Nat) : Nat := chunkBase c (measChunk c w)

/-- SetPtr(w) (R56). -/
def setPtr (c : Config) (w : Nat) : Nat := chunkBase c (setChunk c w)

/-- Owned, ascending (R60): the chunks FX.REFRESH stamps. -/
def ownedChunks (c : Config) : List Nat :=
  match c.role with
  | .worker => [measChunk c c.workerId]
  | .controller => (List.range c.workers).map (setChunk c)

/-- Received(s) (R60): the chunk DMA.RX_ISR verifies for worker slot s. -/
def receivedChunk (c : Config) (s : Nat) : Nat :=
  match c.role with
  | .worker => setChunk c s
  | .controller => measChunk c s

/-- a ∈ TXR (R59). -/
def inTxr (c : Config) (a : Nat) : Bool := decide (c.txBase ≤ a) && decide (a < c.txBase + c.xferLen)

/-- a ∈ RXR (R59). -/
def inRxr (c : Config) (a : Nat) : Bool := decide (c.rxBase ≤ a) && decide (a < c.rxBase + c.xferLen)

/-- XFER_LEN as the channels count it (R30). -/
def xferCount (c : Config) : U32 := BitVec.ofNat 32 c.xferLen

/-- G as the timers and NOW count it (R182). -/
def granCount (c : Config) : U32 := BitVec.ofNat 32 c.gran

/-! ### The shared buffer -/

/-- The addresses are strictly rising. No entry can equal what an unlisted address reads as, since that
is ⊥ and an entry holds a word. -/
def Memory.wf : Memory → Bool
  | [] => true
  | [_] => true
  | (a, _) :: (b, y) :: m => decide (a < b) && Memory.wf ((b, y) :: m)

/-- `buf[a]`: `none` is ⊥, also for an address outside the buffer. -/
def Memory.get : Memory → Nat → Option Word
  | [], _ => none
  | (b, x) :: m, a => if b = a then some x else Memory.get m a

/-- `buf[a] <- v`, keeping the addresses strictly rising. -/
def Memory.set : Memory → Nat → Word → Memory
  | [], a, v => [(a, v)]
  | (b, x) :: m, a, v =>
    if a < b then (a, v) :: (b, x) :: m
    else if a = b then (a, v) :: m
    else (b, x) :: Memory.set m a v

/-- `buf[a]` of a state. -/
def bufGet (s : State) (a : Nat) : Option Word := Memory.get s.buf a

/-- `buf[a] <- v` (R58 without its range check). -/
def bufSet (a : Nat) (v : Word) (s : State) : State := { s with buf := Memory.set s.buf a v }

/-! ### Fault codes (R221) -/

/-- The causes of a latched fault (R221). -/
inductive FaultKind where
  | illegalOpcode
  | reservedField
  | tableNotReady
  | addrRange
  | chunkRange
  | timerRange
  | unwrittenRead
  | bufferRace
  | role
  deriving DecidableEq, Repr

/-- FCODE of each cause (R221). -/
def faultCode : FaultKind → Byte
  | .illegalOpcode => 0x01
  | .reservedField => 0x02
  | .tableNotReady => 0x03
  | .addrRange => 0x04
  | .chunkRange => 0x05
  | .timerRange => 0x06
  | .unwrittenRead => 0x07
  | .bufferRace => 0x08
  | .role => 0x09

/-- `Fault(code, info)` of the pseudocode (R5). -/
structure Trap where
  kind : FaultKind
  info : Nat
  deriving DecidableEq, Repr

/-! ### Fault entry and its gates (R224) -/

/-- Fault entry: the state before the step plus the latch (R224), with FOP = `op` (R223). -/
def raiseFault (op : Byte) (t : Trap) (s : State) : State :=
  { s with faulted := true, fcode := faultCode t.kind, fop := op, farg := BitVec.ofNat 16 t.info }

/-- The end of a step that may raise: all its effects, or none but the latch (R7, R224). There is no
return from a fault (R225), so this is the whole of exception handling. -/
def settle (op : Byte) (s : State) (r : Except Trap State) : Out :=
  match r with
  | .ok s' => .next s'
  | .error t => .next (raiseFault op t s)

/-- A command (R81): while the block is faulted it is not taken and has no effect (R224; log entry 7);
otherwise it runs, and the first fault it reaches is latched. -/
def command (op : Byte) (body : State → Except Trap State) (s : State) : Out :=
  if s.faulted then .next s else settle op s (body s)

/-- An event (R229): its label names a step only when the step is enabled, and none is while the block
is faulted (R76, R224). -/
def event (enabled : State → Bool) (body : State → Out) (s : State) : Out :=
  if !s.faulted && enabled s then body s else .refused .notEnabled

/-! ### Timer slots and lists -/

/-- The slot t (R39). Beyond the T slots no rule reads (R221 TIMER_RANGE; log entry 19). -/
def slotAt (s : State) (t : Nat) : Slot := s.timers.getD t Slot.unused

/-- Writes slot t (R39). -/
def slotSet (t : Nat) (x : Slot) (s : State) : State := { s with timers := s.timers.set t x }

/-- t is in a queue: in TLIST or in EXPQ (R181). -/
def queued (s : State) (t : Nat) : Bool := s.tlist.contains t || s.expq.contains t

/-- `Enqueue(TLIST, t)` (R181). -/
def enqueueTlist (t : Nat) (s : State) : State :=
  if queued s t then s else { s with tlist := s.tlist ++ [t] }

/-- `Enqueue(EXPQ, t)` (R181). -/
def enqueueExpq (t : Nat) (s : State) : State :=
  if queued s t then s else { s with expq := s.expq ++ [t] }

/-- `TLIST <- remove(TLIST, t)` (R5, R185). -/
def removeTlist (t : Nat) (s : State) : State := { s with tlist := s.tlist.erase t }

/-! ### Diagnostics -/

/-- `emit E` (R5, R36). -/
def emit (d : Diag) (s : State) : State := { s with diag := s.diag ++ [d] }

end Sys2Proof.Machine
end

