-- ==== Sys2Proof/Machine/Flags.lean ====
section
/-! DEFINITION. Everything computed from the flags and shown through them: WINDOW and the race rule (R47,
R63), STATUS (R48), the register map of the read port (R45, R46) and the block's outputs (R49). -/

namespace Sys2Proof.Machine

/-- The transfer window (R47). -/
def window (s : State) : Bool :=
  (match s.cfg.role with
    | .worker => !s.lastLevel
    | .controller => decide (0 < s.ctlLeft.toNat)) ||
  decide (s.txCh = .run) || decide (s.rxCh = .run)

/-- WriteRace(a) (R63). -/
def writeRace (s : State) (a : Nat) : Bool := window s && (inTxr s.cfg a || inRxr s.cfg a)

/-- ReadRace(a) (R63). -/
def readRace (s : State) (a : Nat) : Bool := decide (s.rxCh = .run) && inRxr s.cfg a

/-- LinkActive (R137). -/
def linkActive (s : State) : Bool :=
  match s.cfg.role with
  | .worker => !s.csPin
  | .controller => decide (0 < s.ctlLeft.toNat)

/-- The 2-bit code of a channel state (R30). -/
def chanCode : Chan → BitVec 2
  | .idle => 0
  | .run => 1
  | .done => 2

/-- The 2-bit code of a timer state (R39). -/
def timerCode : TimerState → BitVec 2
  | .idle => 0
  | .armed => 1
  | .fired => 2

/-- STATUS bit 4: LAST_LEVEL, 1 in the controller role (R48). -/
def statusLastLevel (s : State) : Bool :=
  match s.cfg.role with
  | .worker => s.lastLevel
  | .controller => true

/-- STATUS bit 13: CS_PIN, 1 in the controller role (R48). -/
def statusCsPin (s : State) : Bool :=
  match s.cfg.role with
  | .worker => s.csPin
  | .controller => true

/-- EXPQ_NONEMPTY, STATUS bit 12 and an output of the block (R48, R49). -/
def expqNonempty (s : State) : Bool := !s.expq.isEmpty

/-- LIVENESS, an output of the block (R49). -/
def liveness (s : State) : Bool := s.live

/-- STATUS (R48), bit 31 first. -/
def status (s : State) : U32 :=
  (0 : BitVec 17) ++ BitVec.ofBool (window s) ++ BitVec.ofBool (statusCsPin s) ++
  BitVec.ofBool (expqNonempty s) ++ chanCode s.rxCh ++ chanCode s.txCh ++ BitVec.ofBool s.faulted ++
  BitVec.ofBool (s.crcMatch.getD false) ++ BitVec.ofBool s.live ++
  BitVec.ofBool (statusLastLevel s) ++ BitVec.ofBool s.rxEn ++ BitVec.ofBool s.pendRx ++
  BitVec.ofBool s.pendTx ++ BitVec.ofBool s.tableValid

/-- "No slot": what EXPQ_HEAD reads, and TMR.POP returns, when EXPQ is empty (R46, R187). -/
def noSlot : U32 := 0xFFFFFFFF

/-- EXPQ_HEAD (R46). -/
def expqHead (s : State) : U32 :=
  match s.expq with
  | [] => noSlot
  | t :: _ => BitVec.ofNat 32 t

/-- FAULT (R46): 7:0 FCODE, 15:8 FOP, 31:16 FARG. -/
def faultReg (s : State) : U32 := s.farg ++ s.fop ++ s.fcode

/-- MIS_MASK as register 0x04 shows it: W−1:0 and zeros above (R46). -/
def misMaskReg (s : State) : U32 := s.misMask &&& BitVec.ofNat 32 (2 ^ s.cfg.workers - 1)

/-- TMR_ST(t), TMR_REM(t) and TMR_RLD(t) at 0x10 + 3t, 0x11 + 3t and 0x12 + 3t, and 0 from 0x10 + 3T on
(R45, R46). `k` is the address less 0x10. -/
def timerReg (s : State) (k : Nat) : Option U32 :=
  let t := k / 3
  if t < s.cfg.timerCount then
    match k % 3 with
    | 0 => some ((timerCode (slotAt s t).st).setWidth 32)
    | 1 => (slotAt s t).rem
    | _ => (slotAt s t).rld
  else some 0

/-- The value a read of register address r returns, `none` for ⊥ (R45, R46). -/
def regValue (s : State) (r : Nat) : Option U32 :=
  match r with
  | 0x00 => some (status s)
  | 0x01 => s.crcResult.map (BitVec.setWidth 32)
  | 0x02 => some s.ovrCnt
  | 0x03 => some s.misCnt
  | 0x04 => some (misMaskReg s)
  | 0x05 => some s.txBytes
  | 0x06 => some s.rxBytes
  | 0x07 => some s.now
  | 0x08 => some (faultReg s)
  | 0x09 => some (expqHead s)
  | 0x0A => s.popResult
  | 0x0B => s.rdData.map (BitVec.setWidth 32)
  | 0x0C => some s.txIdx
  | 0x0D => some s.rxIdx
  | 0x0E => some s.ctlLeft
  | 0x0F => some 0
  | k + 0x10 => timerReg s k

end Sys2Proof.Machine
end

