-- ==== Sys2Proof/Machine/Operands.lean ====
section
/-! DEFINITION. The operand forms of the commands and their checks (R71, R221): word address, word range,
chunk index, timer slot; and the buffer reads and writes a command makes through them (R57, R58, R63). -/

namespace Sys2Proof.Machine

/-- The operand of a `raise` guard: passes when the condition holds. -/
def require (ok : Bool) (t : Trap) : Except Trap Unit := if ok then .ok () else .error t

/-- A word address operand: ADDR_RANGE unless a < BUF_WORDS (R55). -/
def checkAddr (s : State) (a : Nat) : Except Trap Unit :=
  require (decide (a < bufWords s.cfg)) ⟨.addrRange, a⟩

/-- A word range operand [a, a + n): ADDR_RANGE unless it lies in the buffer (R106). -/
def checkRange (s : State) (a n : Nat) : Except Trap Unit :=
  require (decide (a + n ≤ bufWords s.cfg)) ⟨.addrRange, a⟩

/-- A chunk operand: CHUNK_RANGE unless k < 2W (R107). -/
def checkChunk (s : State) (k : Nat) : Except Trap Unit :=
  require (decide (k < 2 * s.cfg.workers)) ⟨.chunkRange, k⟩

/-- A timer slot operand: TIMER_RANGE unless t < T (R184). -/
def checkTimer (s : State) (t : Nat) : Except Trap Unit :=
  require (decide (t < s.cfg.timerCount)) ⟨.timerRange, t⟩

/-- TABLE_NOT_READY unless the table has been built (R106). -/
def checkTable (s : State) : Except Trap Unit := require s.tableValid ⟨.tableNotReady, 0⟩

/-- BufRead(a), which is MemRead(a, 1) (R5, R57). -/
def memRead (s : State) (a : Nat) : Except Trap Word :=
  if a < bufWords s.cfg then
    match bufGet s a with
    | some w => .ok w
    | none => .error ⟨.unwrittenRead, a⟩
  else .error ⟨.addrRange, a⟩

/-- BufWrite(a, v), which is MemWrite(a, 1, v) (R5, R58). -/
def memWrite (a : Nat) (v : Word) (s : State) : Except Trap State :=
  if a < bufWords s.cfg then .ok (bufSet a v s) else .error ⟨.addrRange, a⟩

/-- A command's read of a word: BUFFER_RACE before UNWRITTEN_READ (R63, R226). -/
def cmdRead (s : State) (a : Nat) : Except Trap Word :=
  if readRace s a then .error ⟨.bufferRace, a⟩ else memRead s a

/-- A command's write of a word, after its race check (R63). -/
def cmdWrite (a : Nat) (v : Word) (s : State) : Except Trap State :=
  if writeRace s a then .error ⟨.bufferRace, a⟩ else memWrite a v s

/-- The n words from a on, each read by `rd`, in address order; the first fault ends it. -/
def readSpan (rd : Nat → Except Trap Word) (a : Nat) : Nat → Except Trap (List Word)
  | 0 => .ok []
  | n + 1 => do
    let w ← rd a
    let ws ← readSpan rd (a + 1) n
    .ok (w :: ws)

/-- The payload words of chunk k, read by `rd` (R56). -/
def readPayload (rd : Nat → Except Trap Word) (c : Config) (k : Nat) : Except Trap (List Word) :=
  readSpan rd (chunkBase c k + headerWords) (payloadWords c)

end Sys2Proof.Machine
end

