-- ==== Sys2Proof/Machine/Crc.lean ====
section
/-! DEFINITION. The CRC function (40_crc.md R100 to R105, R109): CRC-16/IBM-3740, table driven, and the
bit-serial form the spec holds it equal to. -/

namespace Sys2Proof.Machine

/-- One top-bit-test-and-shift step with polynomial 0x1021 (R100, R105). -/
def crcShift (c : Word) : Word :=
  if c.getLsbD 15 then (c <<< 1) ^^^ 0x1021 else c <<< 1

/-- `n` such steps. -/
def crcShifts : Nat → Word → Word
  | 0, c => c
  | n + 1, c => crcShifts n (crcShift c)

/-- CRC_TABLE[i] (R100). The table is no free state (R22): its entries are this function's values. -/
def crcTable (i : Byte) : Word := crcShifts 8 (i.setWidth 16 <<< 8)

/-- CrcByte(r, b) (R102). -/
def crcByte (r : Word) (b : Byte) : Word := (r <<< 8) ^^^ crcTable (r.extractLsb' 8 8 ^^^ b)

/-- The bytes of a word in the order the CRC takes them and the link sends them (R52, R53). -/
def wordBytes (w : Word) : List Byte := [w.extractLsb' 8 8, w.extractLsb' 0 8]

/-- CrcWord(r, w) (R103). -/
def crcWord (r w : Word) : Word := crcByte (crcByte r (w.extractLsb' 8 8)) (w.extractLsb' 0 8)

/-- The remainder a computation starts with (R104). -/
def crcInitial : Word := 0xFFFF

/-- CrcWords([w_0 .. w_(n-1)]) (R104): no final XOR. -/
def crcWords (ws : List Word) : Word := ws.foldl crcWord crcInitial

/-- The bit-serial step of a byte (R105). -/
def crcSerialByte (r : Word) (b : Byte) : Word := crcShifts 8 (r ^^^ (b.setWidth 16 <<< 8))

/-- The bit-serial CRC of a byte sequence (R105). -/
def crcSerial (bs : List Byte) : Word := bs.foldl crcSerialByte crcInitial

/-- The bytes of a word sequence in CRC and wire order (R52, R53). -/
def wordsBytes (ws : List Word) : List Byte := ws.flatMap wordBytes

/-- The bytes WIRE_OUT puts on the link, most significant byte of each word first, words in order; an
unspecified word is two unspecified bytes (R52, R138). -/
def wireBytes (ws : List (Option Word)) : List (Option Byte) :=
  ws.flatMap fun
    | some w => (wordBytes w).map some
    | none => [none, none]

/-- ChunkOk(k) (R109), with MemRead for every word: payload first, then the header, as CRC.CHECK. -/
def chunkOk (s : State) (k : Nat) : Except Trap Bool := do
  let ws ← readPayload (memRead s) s.cfg k
  let stored ← memRead s (chunkBase s.cfg k)
  .ok (decide (crcWords ws = stored))

/-- What CRC.STAMP and FX.REFRESH share (R107, R144): the payload of chunk k is read, its CRC written to
the header, all under the race rule; answers the CRC and the state with the header written. -/
def stampChunk (k : Nat) (s : State) : Except Trap (Word × State) := do
  let ws ← readPayload (cmdRead s) s.cfg k
  let s' ← cmdWrite (chunkBase s.cfg k) (crcWords ws) s
  .ok (crcWords ws, s')

end Sys2Proof.Machine
end

