-- ==== Sys2Proof/Machine/CrcUnit.lean ====
section
/-! DEFINITION. The meanings of NOP (30_encoding.md R83) and of the CRC unit's commands (40_crc.md R101,
R106 to R108). RESERVED_FIELD is raised at the port, where the word is (R74). -/

namespace Sys2Proof.Machine

/-- NOP (R83). -/
def execNop (s : State) : Out := command (opcode .nop) (fun s => .ok s) s

/-- CRC.INIT (R101). -/
def execCrcInit (s : State) : Out :=
  command (opcode .crcInit) (fun s => .ok { s with tableValid := true }) s

/-- CRC.COMPUTE a, n (R106). -/
def execCrcCompute (a n : Nat) (s : State) : Out :=
  command (opcode (.crcCompute a n)) (fun s => do
    checkRange s a n
    checkTable s
    let ws ← readSpan (cmdRead s) a n
    .ok { s with crcResult := some (crcWords ws) }) s

/-- CRC.STAMP k (R107). -/
def execCrcStamp (k : Nat) (s : State) : Out :=
  command (opcode (.crcStamp k)) (fun s => do
    checkChunk s k
    checkTable s
    let (c, s') ← stampChunk k s
    .ok { s' with crcResult := some c }) s

/-- CRC.CHECK k (R108): payload words first, the header last. -/
def execCrcCheck (k : Nat) (s : State) : Out :=
  command (opcode (.crcCheck k)) (fun s => do
    checkChunk s k
    checkTable s
    let ws ← readPayload (cmdRead s) s.cfg k
    let stored ← cmdRead s (chunkBase s.cfg k)
    .ok { s with crcResult := some (crcWords ws)
                 crcMatch := some (decide (crcWords ws = stored)) }) s

end Sys2Proof.Machine
end

