-- ==== Sys2Proof/Machine/FxUnit.lean ====
section
/-! DEFINITION. The meanings of the FX unit (41_frame_exchange.md): chip-select edge detection and
debounce, arming and closing a transfer, the link, the DMA channels, their completion handlers with the
receive verification, refresh, and the application's buffer access. -/

namespace Sys2Proof.Machine

/-! ### Procedures that are parts of steps (R134, R135, R143) -/

/-- The overrun record of ArmTransfer (R134, R148). -/
def noteOverrun (s : State) : State :=
  if s.pendTx || s.pendRx then emit .overrun { s with ovrCnt := s.ovrCnt + 1 } else s

/-- Both channels armed with a single trigger each, and reception enabled (R134). -/
def startChannels (s : State) : State :=
  { s with txCh := .run, txIdx := 0, pendTx := true
           rxCh := .run, rxIdx := 0, pendRx := true, rxEn := true }

/-- ArmTransfer() (R134). -/
def armTransfer (s : State) : State := startChannels (noteOverrun s)

/-- CloseFrame() (R135). -/
def closeFrame (s : State) : State :=
  emit (.frameClosed (2 * s.txIdx) (2 * s.rxIdx))
    { s with txBytes := 2 * s.txIdx, rxBytes := 2 * s.rxIdx }

/-- The record of worker slot k's verification (R143): MIS_MASK[k], MIS_CNT and the diagnostic. -/
def recordCheck (k : Nat) (ok : Bool) (s : State) : State :=
  if ok then { s with misMask := s.misMask &&& ~~~((1 : U32) <<< k) }
  else emit (.crcMismatch k)
    { s with misMask := s.misMask ||| ((1 : U32) <<< k), misCnt := s.misCnt + 1 }

/-- The verification of the worker slots listed, in order (R143). -/
def verifySlots : List Nat → State → Except Trap State
  | [], s => .ok s
  | k :: ks, s => do
    let ok ← chunkOk s (receivedChunk s.cfg k)
    verifySlots ks (recordCheck k ok s)

/-- VerifyReceived() (R143). -/
def verifyReceived (s : State) : Except Trap State := do
  checkTable s
  verifySlots (List.range s.cfg.workers) s

/-- The stamping of the chunks listed, in order (R144). -/
def stampChunks : List Nat → State → Except Trap State
  | [], s => .ok s
  | k :: ks, s => do
    let (_, s') ← stampChunk k s
    stampChunks ks s'

/-! ### Chip select (worker role) -/

/-- CS.PIN L (R131). -/
def execCsPin (level : Bool) (s : State) : Out :=
  event (fun s => decide (s.cfg.role = .worker) && decide (level ≠ s.csPin))
    (fun s => .next { s with csPin := level, csIrq := true }) s

/-- CS.GLITCH (R132). -/
def execCsGlitch (s : State) : Out :=
  event (fun s => decide (s.cfg.role = .worker)) (fun s => .next { s with csIrq := true }) s

/-- What the chip-select handler does with the level it reads (R133). -/
def csEdge (s : State) : State :=
  if s.csPin = s.lastLevel then s
  else if s.csPin then closeFrame { s with lastLevel := s.csPin }
  else armTransfer { s with lastLevel := s.csPin }

/-- CS.ISR (R133). -/
def execCsIsr (s : State) : Out :=
  event (fun s => decide (s.cfg.role = .worker) && s.csIrq)
    (fun s => .next (csEdge { s with csIrq := false })) s

/-! ### Controller trigger -/

/-- FX.TRIGGER (R136). -/
def execFxTrigger (s : State) : Out :=
  command (opcode .fxTrigger) (fun s => do
    require (decide (s.cfg.role = .controller)) ⟨.role, 0⟩
    .ok { armTransfer s with ctlLeft := xferCount s.cfg }) s

/-! ### Link and DMA data movement -/

/-- The word shifted out: the head of TXFIFO, or ⊥ on underrun (R138). -/
def shiftOut (s : State) : State :=
  { s with wireOut := s.wireOut ++ [s.txFifo.headD none], txFifo := s.txFifo.tail }

/-- The word shifted in: kept if reception is enabled and RXFIFO has room, else dropped (R138). -/
def shiftIn (p : Word) (s : State) : State :=
  if s.rxEn && decide (s.rxFifo.length < s.cfg.rxFifoDepth) then { s with rxFifo := s.rxFifo ++ [p] }
  else s

/-- The controller's count of words still to clock (R138). -/
def countWord (s : State) : State :=
  match s.cfg.role with
  | .worker => s
  | .controller => { s with ctlLeft := s.ctlLeft - 1 }

/-- LINK.WORD p (R138). -/
def execLinkWord (p : Word) (s : State) : Out :=
  event linkActive (fun s => .next (countWord (shiftIn p (shiftOut s)))) s

/-- The state of a channel whose index has become `idx`: DONE at XFER_LEN (R139, R140). -/
def chanAfter (c : Config) (idx : U32) (ch : Chan) : Chan := if idx = xferCount c then .done else ch

/-- The word address the transmit channel reads next (R139). -/
def txAddr (s : State) : Nat := s.cfg.txBase + s.txIdx.toNat

/-- The word address the receive channel writes next (R140). -/
def rxAddr (s : State) : Nat := s.cfg.rxBase + s.rxIdx.toNat

/-- DMA.TX_STEP (R139): the word goes as it is, ⊥ included. -/
def execDmaTxStep (s : State) : Out :=
  event (fun s => decide (s.txCh = .run) && decide (s.txFifo.length < s.cfg.txFifoDepth))
    (fun s =>
      if txAddr s < bufWords s.cfg then
        .next { s with
          txFifo := s.txFifo ++ [bufGet s (txAddr s)]
          txIdx := s.txIdx + 1
          txCh := chanAfter s.cfg (s.txIdx + 1) s.txCh }
      else .fault (.dmaOutsideBuffer (txAddr s))) s

/-- DMA.RX_STEP (R140): not checked by the race rule (R63). -/
def execDmaRxStep (s : State) : Out :=
  event (fun s => decide (s.rxCh = .run) && !s.rxFifo.isEmpty)
    (fun s =>
      if rxAddr s < bufWords s.cfg then
        .next { bufSet (rxAddr s) (s.rxFifo.headD 0) s with
          rxFifo := s.rxFifo.tail
          rxIdx := s.rxIdx + 1
          rxCh := chanAfter s.cfg (s.rxIdx + 1) s.rxCh }
      else .fault (.dmaOutsideBuffer (rxAddr s))) s

/-! ### DMA completion -/

/-- DMA.TX_ISR (R141). -/
def execDmaTxIsr (s : State) : Out :=
  event (fun s => decide (s.txCh = .done))
    (fun s => .next { s with pendTx := false, txCh := .idle }) s

/-- The receive-complete handler's own writes (R142). -/
def endReception (s : State) : State :=
  { s with pendRx := false, rxCh := .idle, rxEn := false, rxFifo := [] }

/-- DMA.RX_ISR (R142): the one event that may raise a fault of the block (R220, R227). -/
def execDmaRxIsr (s : State) : Out :=
  event (fun s => decide (s.rxCh = .done))
    (fun s => settle (opcode .dmaRxIsr) s (verifyReceived (endReception s))) s

/-! ### Refresh and buffer access -/

/-- FX.REFRESH (R144). CRC_RESULT is not written. -/
def execFxRefresh (s : State) : Out :=
  command (opcode .fxRefresh) (fun s => do
    checkTable s
    let s' ← stampChunks (ownedChunks s.cfg) s
    .ok { s' with live := !s'.live }) s

/-- BUF.WRITE a, v (R145). -/
def execBufWrite (a : Nat) (v : Word) (s : State) : Out :=
  command (opcode (.bufWrite a v)) (fun s => do
    checkAddr s a
    cmdWrite a v s) s

/-- BUF.READ a (R146). -/
def execBufRead (a : Nat) (s : State) : Out :=
  command (opcode (.bufRead a)) (fun s => do
    checkAddr s a
    let w ← cmdRead s a
    .ok { s with rdData := some w }) s

end Sys2Proof.Machine
end

