-- ==== Sys2Proof/Machine/RegPort.lean ====
section
/-! DEFINITION. The meaning of REG.READ, a read through the register read port (10_state.md R45, R46). -/

namespace Sys2Proof.Machine

/-- REG.READ r (R45): returns the register's value and changes no state of the block. It is the one step
taken also while the block is faulted (R224). A register that is ⊥ returns no value: UNWRITTEN_READ is
raised, or, when a fault is already latched, the latch stays as it is (R224, R225). -/
def execRegRead (r : Nat) (s : State) : Out :=
  match regValue s r with
  | some v => .next { s with readOut := some v }
  | none =>
    if s.faulted then .next { s with readOut := none }
    else .next (raiseFault (opcode (.regRead r)) ⟨.unwrittenRead, r⟩ { s with readOut := none })

end Sys2Proof.Machine
end

