-- ==== Sys2Proof/Machine/TmrUnit.lean ====
section
/-! DEFINITION. The meanings of the TMR unit (42_timer.md): the tick walk and the timer commands. -/

namespace Sys2Proof.Machine

/-- The walk's work on one timer (R182): fire it when REM ≤ G, else subtract G. A slot without REM is
left alone; `execTick` stops before the walk when TLIST holds one. -/
def tickSlot (s : State) (t : Nat) : State :=
  match (slotAt s t).rem with
  | none => s
  | some r =>
    if r.toNat ≤ s.cfg.gran then
      enqueueExpq t (slotSet t { slotAt s t with rem := some 0, st := .fired } (removeTlist t s))
    else slotSet t { slotAt s t with rem := some (r - granCount s.cfg) } s

/-- Every timer in TLIST has its REM (R42). -/
def armedWritten (s : State) : Bool := s.tlist.all fun t => (slotAt s t).rem.isSome

/-- TICK (R182): NOW advances and the walk visits the timers of TLIST as it stood at entry (R183). -/
def execTick (s : State) : Out :=
  event (fun _ => true)
    (fun s =>
      if armedWritten s then .next (s.tlist.foldl tickSlot { s with now := s.now + granCount s.cfg })
      else .fault .armedTimerUnwritten) s

/-- An idle timer is put on TLIST and armed; an armed or fired one keeps its place (R184, R186). -/
def armIdle (t : Nat) (s : State) : State :=
  match (slotAt s t).st with
  | .idle => slotSet t { slotAt s t with st := .armed } (enqueueTlist t s)
  | .armed => s
  | .fired => s

/-- TMR.START t, p (R184): a period below G is rejected silently. -/
def execTmrStart (t : Nat) (p : U32) (s : State) : Out :=
  command (opcode (.tmrStart t p)) (fun s => do
    checkTimer s t
    if p.toNat < s.cfg.gran then .ok s
    else .ok (armIdle t (slotSet t { slotAt s t with rem := some p, rld := some p } s))) s

/-- TMR.STOP t (R185): a fired timer is not recalled. -/
def execTmrStop (t : Nat) (s : State) : Out :=
  command (opcode (.tmrStop t)) (fun s => do
    checkTimer s t
    match (slotAt s t).st with
    | .armed => .ok (slotSet t { slotAt s t with st := .idle } (removeTlist t s))
    | .idle => .ok s
    | .fired => .ok s) s

/-- TMR.RESTART t (R186). -/
def execTmrRestart (t : Nat) (s : State) : Out :=
  command (opcode (.tmrRestart t)) (fun s => do
    checkTimer s t
    match (slotAt s t).rld with
    | none => .error ⟨.unwrittenRead, t⟩
    | some p => .ok (armIdle t (slotSet t { slotAt s t with rem := some p } s))) s

/-- TMR.POP (R187). -/
def execTmrPop (s : State) : Out :=
  command (opcode .tmrPop) (fun s =>
    match s.expq with
    | [] => .ok { s with popResult := some noSlot }
    | t :: ts =>
      .ok (slotSet t { slotAt s t with st := .idle }
        { s with expq := ts, popResult := some (BitVec.ofNat 32 t) })) s

end Sys2Proof.Machine
end

