-- ==== Sys2Proof/Machine/Dispatch.lean ====
section
/-! DEFINITION. One arm for each constructor of `Instr`. -/

namespace Sys2Proof.Machine

def exec (i : Instr) (s : State) : Host.Outcome State Fault Refusal :=
  match i with
  | .nop => Sys2Proof.Machine.execNop s
  | .crcInit => Sys2Proof.Machine.execCrcInit s
  | .crcCompute a n => Sys2Proof.Machine.execCrcCompute a n s
  | .crcStamp k => Sys2Proof.Machine.execCrcStamp k s
  | .crcCheck k => Sys2Proof.Machine.execCrcCheck k s
  | .fxRefresh => Sys2Proof.Machine.execFxRefresh s
  | .fxTrigger => Sys2Proof.Machine.execFxTrigger s
  | .tmrStart t p => Sys2Proof.Machine.execTmrStart t p s
  | .tmrStop t => Sys2Proof.Machine.execTmrStop t s
  | .tmrRestart t => Sys2Proof.Machine.execTmrRestart t s
  | .tmrPop => Sys2Proof.Machine.execTmrPop s
  | .bufWrite a v => Sys2Proof.Machine.execBufWrite a v s
  | .bufRead a => Sys2Proof.Machine.execBufRead a s
  | .tick => Sys2Proof.Machine.execTick s
  | .csPin level => Sys2Proof.Machine.execCsPin level s
  | .csGlitch => Sys2Proof.Machine.execCsGlitch s
  | .csIsr => Sys2Proof.Machine.execCsIsr s
  | .linkWord p => Sys2Proof.Machine.execLinkWord p s
  | .dmaTxStep => Sys2Proof.Machine.execDmaTxStep s
  | .dmaRxStep => Sys2Proof.Machine.execDmaRxStep s
  | .dmaTxIsr => Sys2Proof.Machine.execDmaTxIsr s
  | .dmaRxIsr => Sys2Proof.Machine.execDmaRxIsr s
  | .regRead r => Sys2Proof.Machine.execRegRead r s

end Sys2Proof.Machine
end

