-- ==== Sys2Proof/Machine/Port.lean ====
section
/-! DEFINITION. How a stimulus becomes a step: the command port (30_encoding.md R73 to R75, R81), the event
labels (R76) and the external reset (70_reset_and_hazards.md R261). -/

namespace Sys2Proof.Machine

/-- A fault raised at the command port, before a command's own rule (R73, R74): FOP is the word's OP
(R223). While the block is faulted the word is not taken (R81, R224). -/
def portFault (w : CmdWord) (k : FaultKind) (s : State) : Out :=
  command (opField w) (fun _ => .error ⟨k, 0⟩) s

/-- The host writes `w` to the command port. A label's OP is no command (R75), whatever its other bits. -/
def takeCommand (w : CmdWord) (s : State) : Out :=
  if isLabelOp (opField w) then portFault w .illegalOpcode s
  else
    match decode w with
    | .instr i => exec i s
    | .illegalOpcode => portFault w .illegalOpcode s
    | .reservedField => portFault w .reservedField s

/-- The step the label `w` names is taken; a word that names none is refused (R76, R238). -/
def takeLabel (w : CmdWord) (s : State) : Out :=
  match decode w with
  | .instr i => if isEvent i then exec i s else .refused .badLabel
  | .illegalOpcode => .refused .badLabel
  | .reservedField => .refused .badLabel

/-- The whole block is reset (R260, R261); what the outside world does next is no state of the block
and stays. -/
def takeReset (s : State) : Out := .next { State.resetWith s.cfg with inputs := s.inputs }

/-- One stimulus. -/
def take (x : Stimulus) (s : State) : Out :=
  match x with
  | .command w => takeCommand w s
  | .label w => takeLabel w s
  | .reset => takeReset s

/-- The stimulus that runs the step with word `w`: its label for an event, else a command. -/
def stimulusOf (w : CmdWord) : Stimulus := if isLabelOp (opField w) then .label w else .command w

end Sys2Proof.Machine
end

