-- ==== Sys2Proof/Machine/Step.lean ====
section
/-! DEFINITION. One step of the machine, and the placing of a word where the next step takes it. -/

namespace Sys2Proof.Machine

/-- One step: a configuration that breaks R3 is refused; otherwise the first stimulus is taken, and with
none left nothing happens (R273: the block never stops by itself; log entry 3). -/
def step (s : State) : Host.Outcome State Fault Refusal :=
  if configValid s.cfg then
    match s.inputs with
    | [] => .next s
    | x :: rest => take x { s with inputs := rest }
  else .refused .badConfig

/-- The state in which the next step runs the 64-bit word whose bits below `nbits` are those of `w` and
whose other bits are 0 (log entry 4). -/
def State.withFetchWord (s : State) (nbits w : Nat) : State :=
  { s with inputs := stimulusOf (BitVec.ofNat 64 (w % 2 ^ nbits)) :: s.inputs }

end Sys2Proof.Machine
end

