-- ==== Sys2Proof/Machine/Assembler.lean ====
section
/-! DEFINITION. The source syntax of commands and labels (30_encoding.md R78): a line of characters to an
instruction. It is the host's tool, no step of the block; an operand that does not fit its field is
refused, never truncated. Log entry 14 lists what R78 leaves open (blanks, letter case, hex digits). -/

namespace Sys2Proof.Machine

/-- Why the assembler refuses a line. -/
inductive AsmError where
  /-- The line begins with none of the mnemonics of R78. -/
  | unknownMnemonic
  /-- The number of operands is not the mnemonic's. -/
  | operandCount
  /-- An operand is neither a decimal nor a `0x` hexadecimal number. -/
  | badNumber
  /-- An operand does not fit its field (R78). -/
  | operandTooWide
  deriving DecidableEq, Repr

/-- A character between the parts of a line. -/
def isBlank (c : Char) : Bool := c == ' ' || c == '\t'

/-- A part of a line without the blanks around it. -/
def trimBlanks (cs : List Char) : List Char :=
  ((cs.dropWhile isBlank).reverse.dropWhile isBlank).reverse

/-- The line up to its comment, which starts with a semicolon (R78). -/
def stripComment (cs : List Char) : List Char := cs.takeWhile (· != ';')

/-- The parts between the commas, in order. -/
def splitCommas : List Char → List (List Char)
  | [] => [[]]
  | c :: cs =>
    if c == ',' then [] :: splitCommas cs
    else
      match splitCommas cs with
      | [] => [[c]]
      | p :: ps => (c :: p) :: ps

/-- The value of a digit of the given base. -/
def digitValue (base : Nat) (c : Char) : Option Nat :=
  let n := c.toNat
  let d :=
    if 48 ≤ n ∧ n ≤ 57 then n - 48
    else if 97 ≤ n ∧ n ≤ 102 then n - 87
    else if 65 ≤ n ∧ n ≤ 70 then n - 55
    else 16
  if d < base then some d else none

/-- The number the digits write, after `acc`. -/
def digitsValue (base : Nat) : Nat → List Char → Option Nat
  | acc, [] => some acc
  | acc, c :: cs =>
    match digitValue base c with
    | some d => digitsValue base (acc * base + d) cs
    | none => none

/-- A decimal or `0x` hexadecimal number (R78). -/
def parseNumber : List Char → Except AsmError Nat
  | [] => .error .badNumber
  | '0' :: 'x' :: c :: cs =>
    match digitsValue 16 0 (c :: cs) with
    | some n => .ok n
    | none => .error .badNumber
  | c :: cs =>
    match digitsValue 10 0 (c :: cs) with
    | some n => .ok n
    | none => .error .badNumber

/-- The numbers of an operand list. -/
def parseNumbers : List (List Char) → Except AsmError (List Nat)
  | [] => .ok []
  | p :: ps => do
    let n ← parseNumber (trimBlanks p)
    let ns ← parseNumbers ps
    .ok (n :: ns)

/-- A form without operands. -/
def form0 (i : Instr) : List Nat → Except AsmError Instr
  | [] => .ok i
  | _ :: _ => .error .operandCount

/-- A form with one operand, which must be below `bound`. -/
def form1 (bound : Nat) (f : Nat → Instr) : List Nat → Except AsmError Instr
  | [x] => if x < bound then .ok (f x) else .error .operandTooWide
  | _ => .error .operandCount

/-- A form with two operands, each below its bound. -/
def form2 (bound₁ bound₂ : Nat) (f : Nat → Nat → Instr) : List Nat → Except AsmError Instr
  | [x, y] => if x < bound₁ ∧ y < bound₂ then .ok (f x y) else .error .operandTooWide
  | _ => .error .operandCount

/-- The forms of R78: what each mnemonic makes of its operands. -/
def asmForm (m : List Char) : Option (List Nat → Except AsmError Instr) :=
  if m = ['N', 'O', 'P'] then some (form0 .nop)
  else if m = ['C', 'R', 'C', '.', 'I', 'N', 'I', 'T'] then some (form0 .crcInit)
  else if m = ['C', 'R', 'C', '.', 'C', 'O', 'M', 'P', 'U', 'T', 'E'] then
    some (form2 (2 ^ 16) (2 ^ 32) fun a n => .crcCompute a n)
  else if m = ['C', 'R', 'C', '.', 'S', 'T', 'A', 'M', 'P'] then some (form1 (2 ^ 16) .crcStamp)
  else if m = ['C', 'R', 'C', '.', 'C', 'H', 'E', 'C', 'K'] then some (form1 (2 ^ 16) .crcCheck)
  else if m = ['F', 'X', '.', 'R', 'E', 'F', 'R', 'E', 'S', 'H'] then some (form0 .fxRefresh)
  else if m = ['F', 'X', '.', 'T', 'R', 'I', 'G', 'G', 'E', 'R'] then some (form0 .fxTrigger)
  else if m = ['T', 'M', 'R', '.', 'S', 'T', 'A', 'R', 'T'] then
    some (form2 (2 ^ 16) (2 ^ 32) fun t p => .tmrStart t (BitVec.ofNat 32 p))
  else if m = ['T', 'M', 'R', '.', 'S', 'T', 'O', 'P'] then some (form1 (2 ^ 16) .tmrStop)
  else if m = ['T', 'M', 'R', '.', 'R', 'E', 'S', 'T', 'A', 'R', 'T'] then
    some (form1 (2 ^ 16) .tmrRestart)
  else if m = ['T', 'M', 'R', '.', 'P', 'O', 'P'] then some (form0 .tmrPop)
  else if m = ['B', 'U', 'F', '.', 'W', 'R', 'I', 'T', 'E'] then
    some (form2 (2 ^ 16) (2 ^ 16) fun a v => .bufWrite a (BitVec.ofNat 16 v))
  else if m = ['B', 'U', 'F', '.', 'R', 'E', 'A', 'D'] then some (form1 (2 ^ 16) .bufRead)
  else if m = ['T', 'I', 'C', 'K'] then some (form0 .tick)
  else if m = ['C', 'S', '.', 'P', 'I', 'N'] then some (form1 2 fun l => .csPin (decide (l = 1)))
  else if m = ['C', 'S', '.', 'G', 'L', 'I', 'T', 'C', 'H'] then some (form0 .csGlitch)
  else if m = ['C', 'S', '.', 'I', 'S', 'R'] then some (form0 .csIsr)
  else if m = ['L', 'I', 'N', 'K', '.', 'W', 'O', 'R', 'D'] then
    some (form1 (2 ^ 16) fun p => .linkWord (BitVec.ofNat 16 p))
  else if m = ['D', 'M', 'A', '.', 'T', 'X', '_', 'S', 'T', 'E', 'P'] then some (form0 .dmaTxStep)
  else if m = ['D', 'M', 'A', '.', 'R', 'X', '_', 'S', 'T', 'E', 'P'] then some (form0 .dmaRxStep)
  else if m = ['D', 'M', 'A', '.', 'T', 'X', '_', 'I', 'S', 'R'] then some (form0 .dmaTxIsr)
  else if m = ['D', 'M', 'A', '.', 'R', 'X', '_', 'I', 'S', 'R'] then some (form0 .dmaRxIsr)
  else if m = ['R', 'E', 'G', '.', 'R', 'E', 'A', 'D'] then some (form1 (2 ^ 32) .regRead)
  else none

/-- The operands written after a mnemonic; none when nothing is. -/
def operandParts (cs : List Char) : List (List Char) :=
  match trimBlanks cs with
  | [] => []
  | c :: rest => splitCommas (c :: rest)

/-- One line of source (R78): `none` for a line that holds only blanks or a comment. -/
def assembleLine (line : List Char) : Except AsmError (Option Instr) :=
  match trimBlanks (stripComment line) with
  | [] => .ok none
  | c :: cs =>
    match asmForm ((c :: cs).takeWhile (!isBlank ·)) with
    | none => .error .unknownMnemonic
    | some form => do
      let xs ← parseNumbers (operandParts ((c :: cs).dropWhile (!isBlank ·)))
      let i ← form xs
      .ok (some i)

end Sys2Proof.Machine
end

