-- ==== Sys2Proof/Safety.lean ====
section
/-! DEFINITION. The terms claims are stated in: the invariants the spec says every rule keeps, what a
sequence of steps does, quiescence and fairness (70_reset_and_hazards.md R273, 60_exceptions.md R231), and
the words and faults of a buffer access. -/

namespace Sys2Proof.Machine

/-! ### Invariants -/

/-- The timer invariant R42, for every slot (a slot id is below T because slots beyond T read as idle),
with R39's T slots, the no-duplicates clauses of R40 and R41, and R186's "RLD[t] ≥ G always holds once
written". -/
structure TimerInv (s : State) : Prop where
  slots : s.timers.length = s.cfg.timerCount
  tlistNodup : s.tlist.Nodup
  expqNodup : s.expq.Nodup
  armed : ∀ t, t ∈ s.tlist ↔ (slotAt s t).st = .armed
  fired : ∀ t, t ∈ s.expq ↔ (slotAt s t).st = .fired
  written : ∀ t ∈ s.tlist, (slotAt s t).rem.isSome ∧ (slotAt s t).rld.isSome
  floor : ∀ t p, (slotAt s t).rld = some p → s.cfg.gran ≤ p.toNat

/-- The transfer state: the index bounds of R30 and R31, the FIFO bounds of R32, the pending flags and
RX_EN as arming and completion leave them (R28, R29, R134, R141, R142), CTL_LEFT (R33), MIS_MASK's W bits
(R35) and what the roles keep at reset (R147). -/
structure TransferInv (s : State) : Prop where
  txBound : s.txIdx.toNat ≤ s.cfg.xferLen
  txRun : s.txCh = .run → s.txIdx.toNat < s.cfg.xferLen
  txDone : s.txCh = .done → s.txIdx.toNat = s.cfg.xferLen
  txPend : s.pendTx = true ↔ s.txCh ≠ .idle
  rxBound : s.rxIdx.toNat ≤ s.cfg.xferLen
  rxRun : s.rxCh = .run → s.rxIdx.toNat < s.cfg.xferLen
  rxDone : s.rxCh = .done → s.rxIdx.toNat = s.cfg.xferLen
  rxPend : s.pendRx = true ↔ s.rxCh ≠ .idle
  rxEnabled : s.rxEn = s.pendRx
  txRoom : s.txFifo.length ≤ s.cfg.txFifoDepth
  rxRoom : s.rxFifo.length ≤ s.cfg.rxFifoDepth
  clocks : s.ctlLeft.toNat ≤ s.cfg.xferLen
  workerClocks : s.cfg.role = .worker → s.ctlLeft = 0
  controllerCs : s.cfg.role = .controller → s.csPin = true ∧ s.csIrq = false ∧ s.lastLevel = true
  mask : s.misMask.toNat < 2 ^ s.cfg.workers

/-- The buffer is in canonical form and holds words at addresses of the buffer only (R50). -/
structure BufferInv (s : State) : Prop where
  canonical : Memory.wf s.buf = true
  inside : ∀ a, (bufGet s a).isSome → a < bufWords s.cfg

/-- The record is a CRC_MISMATCH. -/
def isMismatch : Diag → Bool
  | .overrun => false
  | .crcMismatch _ => true
  | .frameClosed _ _ => false

/-- The counters count the records of DIAG mod 2^32 (R34), and a CRC_MISMATCH names a worker slot (R151). -/
structure DiagInv (s : State) : Prop where
  overruns : s.ovrCnt = BitVec.ofNat 32 (s.diag.count .overrun)
  mismatches : s.misCnt = BitVec.ofNat 32 (s.diag.countP isMismatch)
  slots : ∀ k, Diag.crcMismatch k ∈ s.diag → k < s.cfg.workers

/-- Without a fault the latch holds its reset values; with one it holds a code of R221's table (R44, R221:
"Codes 0x0A to 0xFF are never latched"). A CRC result exists only after the table was built (R22, R106). -/
structure LatchInv (s : State) : Prop where
  clear : s.faulted = false → s.fcode = 0 ∧ s.fop = 0 ∧ s.farg = 0
  coded : s.faulted = true → 1 ≤ s.fcode.toNat ∧ s.fcode.toNat ≤ 9
  results : s.crcResult.isSome → s.tableValid = true
  matchResult : s.crcMatch.isSome → s.tableValid = true

/-- All of them, with a legal configuration. -/
structure Inv (s : State) : Prop where
  config : configValid s.cfg = true
  timer : TimerInv s
  transfer : TransferInv s
  buffer : BufferInv s
  diag : DiagInv s
  latch : LatchInv s

/-! ### Sequences of steps -/

/-- The state after the steps listed, in order; `none` when one of them ends in no next state. -/
def execAll : List Instr → State → Option State
  | [], s => some s
  | i :: is, s =>
    match exec i s with
    | .next t => execAll is t
    | .fault _ => none
    | .refused _ => none

/-- The step is enabled: it is not refused (R229). -/
def enabled (i : Instr) (s : State) : Bool :=
  match exec i s with
  | .next _ => true
  | .fault _ => true
  | .refused _ => false

/-- The block's own steps (R231, R273). -/
def internalSteps : List Instr := [.dmaTxStep, .dmaRxStep, .csIsr, .dmaTxIsr, .dmaRxIsr]

/-- No block-internal step is enabled (R273). -/
def quiescent (s : State) : Bool := internalSteps.all fun i => !enabled i s

/-- The state after the first `n` stimuli of an endless run. -/
def runAlong (sched : Nat → Stimulus) (s : State) : Nat → Option State
  | 0 => some s
  | n + 1 =>
    match runAlong sched s n with
    | none => none
    | some t =>
      match take (sched n) t with
      | .next u => some u
      | .fault _ => none
      | .refused _ => none

/-- Weak fairness (R231): a block-internal step that stays enabled from some point on is taken after it. -/
def WeaklyFair (sched : Nat → Stimulus) (s : State) : Prop :=
  ∀ i ∈ internalSteps, ∀ n,
    (∀ m, n ≤ m → ∃ t, runAlong sched s m = some t ∧ enabled i t = true) →
    ∃ m, n ≤ m ∧ sched m = .label (encode i)

/-! ### The encoding tables, as the spec prints them -/

/-- OP of each command and the bits R72 names as must-be-zero for it. -/
def commandZeroBits : List (Byte × CmdWord) :=
  [(0x00, 0x00FFFFFFFFFFFFFF), (0x01, 0x00FFFFFFFFFFFFFF), (0x02, 0x000000FF00000000),
   (0x03, 0x000000FFFFFFFFFF), (0x04, 0x000000FFFFFFFFFF), (0x10, 0x00FFFFFFFFFFFFFF),
   (0x11, 0x00FFFFFFFFFFFFFF), (0x20, 0x000000FF00000000), (0x21, 0x000000FFFFFFFFFF),
   (0x22, 0x000000FFFFFFFFFF), (0x23, 0x00FFFFFFFFFFFFFF), (0x30, 0x000000FFFFFF0000),
   (0x31, 0x000000FFFFFFFFFF)]

/-- OP of each event label and the bits R76 names as must-be-zero for it. -/
def labelZeroBits : List (Byte × CmdWord) :=
  [(0x80, 0x00FFFFFFFFFFFFFF), (0x81, 0x00FFFFFFFFFFFFFE), (0x82, 0x00FFFFFFFFFFFFFF),
   (0x83, 0x00FFFFFFFFFFFFFF), (0x84, 0x00FFFFFFFFFF0000), (0x85, 0x00FFFFFFFFFFFFFF),
   (0x86, 0x00FFFFFFFFFFFFFF), (0x87, 0x00FFFFFFFFFFFFFF), (0x88, 0x00FFFFFFFFFFFFFF),
   (0x90, 0x00FFFFFF00000000)]

/-! ### The source syntax, as the spec prints it -/

/-- One form of R78: the mnemonic, its OP, and for each field that holds an operand the bound the operand must
stay below to fit it (R78; R72 and R76 name the fields). -/
structure AsmRow where
  mnemonic : List Char
  op : Byte
  boundA : Option Nat
  boundB : Option Nat
  deriving DecidableEq, Repr

/-- The forms of the commands (R78, R72). -/
def commandForms : List AsmRow := [
   ⟨['N', 'O', 'P'], 0x00, none, none⟩,
   ⟨['C', 'R', 'C', '.', 'I', 'N', 'I', 'T'], 0x01, none, none⟩,
   ⟨['C', 'R', 'C', '.', 'C', 'O', 'M', 'P', 'U', 'T', 'E'], 0x02, some 0x10000, some 0x100000000⟩,
   ⟨['C', 'R', 'C', '.', 'S', 'T', 'A', 'M', 'P'], 0x03, some 0x10000, none⟩,
   ⟨['C', 'R', 'C', '.', 'C', 'H', 'E', 'C', 'K'], 0x04, some 0x10000, none⟩,
   ⟨['F', 'X', '.', 'R', 'E', 'F', 'R', 'E', 'S', 'H'], 0x10, none, none⟩,
   ⟨['F', 'X', '.', 'T', 'R', 'I', 'G', 'G', 'E', 'R'], 0x11, none, none⟩,
   ⟨['T', 'M', 'R', '.', 'S', 'T', 'A', 'R', 'T'], 0x20, some 0x10000, some 0x100000000⟩,
   ⟨['T', 'M', 'R', '.', 'S', 'T', 'O', 'P'], 0x21, some 0x10000, none⟩,
   ⟨['T', 'M', 'R', '.', 'R', 'E', 'S', 'T', 'A', 'R', 'T'], 0x22, some 0x10000, none⟩,
   ⟨['T', 'M', 'R', '.', 'P', 'O', 'P'], 0x23, none, none⟩,
   ⟨['B', 'U', 'F', '.', 'W', 'R', 'I', 'T', 'E'], 0x30, some 0x10000, some 0x10000⟩,
   ⟨['B', 'U', 'F', '.', 'R', 'E', 'A', 'D'], 0x31, some 0x10000, none⟩]

/-- The forms of the event labels (R78's last sentence, R76). -/
def labelForms : List AsmRow := [
   ⟨['T', 'I', 'C', 'K'], 0x80, none, none⟩,
   ⟨['C', 'S', '.', 'P', 'I', 'N'], 0x81, none, some 2⟩,
   ⟨['C', 'S', '.', 'G', 'L', 'I', 'T', 'C', 'H'], 0x82, none, none⟩,
   ⟨['C', 'S', '.', 'I', 'S', 'R'], 0x83, none, none⟩,
   ⟨['L', 'I', 'N', 'K', '.', 'W', 'O', 'R', 'D'], 0x84, none, some 0x10000⟩,
   ⟨['D', 'M', 'A', '.', 'T', 'X', '_', 'S', 'T', 'E', 'P'], 0x85, none, none⟩,
   ⟨['D', 'M', 'A', '.', 'R', 'X', '_', 'S', 'T', 'E', 'P'], 0x86, none, none⟩,
   ⟨['D', 'M', 'A', '.', 'T', 'X', '_', 'I', 'S', 'R'], 0x87, none, none⟩,
   ⟨['D', 'M', 'A', '.', 'R', 'X', '_', 'I', 'S', 'R'], 0x88, none, none⟩,
   ⟨['R', 'E', 'G', '.', 'R', 'E', 'A', 'D'], 0x90, none, some 0x100000000⟩]

/-- All forms. -/
def asmRows : List AsmRow := commandForms ++ labelForms

/-- The bounds of a form's operands in the order they are written: field A's before field B's. -/
def AsmRow.bounds (r : AsmRow) : List Nat := r.boundA.toList ++ r.boundB.toList

/-- The operand a form puts into field A, 0 when it puts none there. -/
def AsmRow.valueA (r : AsmRow) (xs : List Nat) : Nat := if r.boundA.isSome then xs.headD 0 else 0

/-- The operand a form puts into field B, 0 when it puts none there. -/
def AsmRow.valueB (r : AsmRow) (xs : List Nat) : Nat := if r.boundB.isSome then xs.getLastD 0 else 0

/-! ### A frame, word by word -/

/-- One round for each word the peer sends: channel, link, channel (R139, R138, R140). -/
def frameSteps (ps : List Word) : List Instr :=
  ps.flatMap fun p => [.dmaTxStep, .linkWord p, .dmaRxStep]

/-- Word j that the transmit channel takes in such rounds: what the peer sent earlier in the frame where the
receive region lies over the transmit region, else the buffer's word as it was. -/
def frameWord (s : State) (ps : List Word) (j : Nat) : Option Word :=
  let a := s.cfg.txBase + j
  if s.cfg.rxBase ≤ a ∧ a < s.cfg.rxBase + j then ps[a - s.cfg.rxBase]? else bufGet s a

/-- The whole frame has moved from s to u: both channels are done and both FIFOs empty, the peer's words lie
in the receive region in order, every other word of the buffer is as it was, and the transmit region's words
went out in order. -/
structure FrameMoved (s u : State) (ps : List Word) : Prop where
  txDone : u.txCh = .done
  rxDone : u.rxCh = .done
  txEmpty : u.txFifo = []
  rxEmpty : u.rxFifo = []
  received : ∀ j, (h : j < ps.length) → bufGet u (s.cfg.rxBase + j) = some ps[j]
  others : ∀ a, inRxr s.cfg a = false → bufGet u a = bufGet s a
  sent : u.wireOut = s.wireOut ++ (List.range s.cfg.xferLen).map (frameWord s ps)

/-- The step is a word time of the link. -/
def isLinkWord (i : Instr) : Bool := decide (opcode i = 0x84)

/-! ### Buffer accesses -/

/-- The state with a fault latched and nothing else changed (R224). -/
def latched (code op : Byte) (arg : Nat) (s : State) : State :=
  { s with faulted := true, fcode := code, fop := op, farg := BitVec.ofNat 16 arg }

/-- The n word addresses from a on. -/
def spanAddrs (a n : Nat) : List Nat := (List.range n).map (a + ·)

/-- The header address of chunk k (R56). -/
def headerAddr (c : Config) (k : Nat) : Nat := k * c.chunk

/-- The payload addresses of chunk k (R56). -/
def payloadAddrs (c : Config) (k : Nat) : List Nat := spanAddrs (k * c.chunk + 1) (c.chunk - 1)

/-- A command may read word a: no race, and the word is written (R63, R57). -/
abbrev Readable (s : State) (a : Nat) : Prop := readRace s a = false ∧ (bufGet s a).isSome = true

/-- The word a holds a value. -/
abbrev Written (s : State) (a : Nat) : Prop := (bufGet s a).isSome = true

/-- The word at a; used only where it is written. -/
def wordAt (s : State) (a : Nat) : Word := (bufGet s a).getD 0

/-- The payload of chunk k; used only where it is written. -/
def payloadOf (s : State) (k : Nat) : List Word := (payloadAddrs s.cfg k).map (wordAt s)

/-- The chunk's stored header is the CRC of its payload (R109). -/
def chunkMatches (s : State) (k : Nat) : Bool :=
  decide (crcWords (payloadOf s k) = wordAt s (headerAddr s.cfg k))

/-- a is the first address of the list that fails P. -/
def FirstFailing (P : Nat → Prop) (addrs : List Nat) (a : Nat) : Prop :=
  ∃ before after, addrs = before ++ a :: after ∧ (∀ x ∈ before, P x) ∧ ¬ P a

/-- FCODE of a read that is not `Readable`: BUFFER_RACE before UNWRITTEN_READ (R226). -/
def readFault (s : State) (a : Nat) : Byte := if readRace s a then 0x08 else 0x07

end Sys2Proof.Machine
end

