-- ==== Sys2Proof/Certificates/Slice0/Obligations.lean ====
section
/-! DEFINITION. The statements for the provers. Each docstring names the rule of spec/ it formalises; where a
clause is the model's own choice it names the log entry. -/

open Sys2Proof Sys2Proof.Machine

/-! ### Encoding (30_encoding.md) -/

/-- R70 to R72, R76: every well-formed step's word decodes to that step, whatever its operands. -/
def Obligations.DecodeOfEncodeIsTheInstruction : Prop :=
  ∀ i : Instr, i.wf = true → decode (encode i) = .instr i

/-- R72 to R74, R76: a word that decodes to a step is the one word of that step, and the step is
well-formed: no step has a second spelling. -/
def Obligations.DecodedWordIsTheEncoding : Prop :=
  ∀ (w : CmdWord) (i : Instr), decode w = .instr i → i.wf = true ∧ encode i = w

/-- R80 and the vectors V-ENC-01 to V-ENC-19 of 95_test_vectors.md: words the spec prints, with the steps or
faults it prints them for. -/
def Obligations.SpecWordsDecode : Prop :=
  decode 0x20000200000000FA = .instr (.tmrStart 2 250) ∧
  decode 0x3000410000001234 = .instr (.bufWrite 0x41 0x1234) ∧
  decode 0x0200010000000003 = .instr (.crcCompute 1 3) ∧
  decode 0x1100000000000000 = .instr .fxTrigger ∧
  decode 0x0500000000000000 = .illegalOpcode ∧
  decode 0x0000000100000000 = .reservedField ∧
  decode 0x3000010000010000 = .reservedField ∧
  decode 0x84000000000024E2 = .instr (.linkWord 0x24E2) ∧
  decode 0x8100000000000001 = .instr (.csPin true)

/-- R73, R75: a word whose OP is none of the thirteen commands, written to the command port, latches
ILLEGAL_OPCODE with FOP = OP and FARG = 0, and changes nothing else. -/
def Obligations.UnknownOpcodesFault : Prop :=
  ∀ (s : State) (w : CmdWord) (rest : List Stimulus),
    configValid s.cfg = true → s.faulted = false → s.inputs = .command w :: rest →
    opField w ∉ commandZeroBits.map Prod.fst →
    step s = .next { s with
      inputs := rest, faulted := true, fcode := 0x01, fop := opField w, farg := 0 }

/-- R74: a command word with a must-be-zero bit set latches RESERVED_FIELD with FARG = 0, and has no other
effect; RSV is must-be-zero in every command; a word of one of the thirteen commands with its zero bits
clear is a command. -/
def Obligations.MustBeZeroBitsFault : Prop :=
  ∀ (w zeros : CmdWord), (opField w, zeros) ∈ commandZeroBits →
    zeros.extractLsb' 32 8 = 0xFF ∧
    (w &&& zeros ≠ 0 → ∀ (s : State) (rest : List Stimulus),
      configValid s.cfg = true → s.faulted = false → s.inputs = .command w :: rest →
      step s = .next { s with
        inputs := rest, faulted := true, fcode := 0x02, fop := opField w, farg := 0 }) ∧
    (w &&& zeros = 0 → ∃ i, isEvent i = false ∧ decode w = .instr i)

/-- R76, R238: a label whose OP is not in R76's table, or with a must-be-zero bit set, is refused. -/
def Obligations.LabelsOutsideTheTableRefused : Prop :=
  ∀ (s : State) (w : CmdWord) (rest : List Stimulus),
    configValid s.cfg = true → s.inputs = .label w :: rest →
    (opField w ∉ labelZeroBits.map Prod.fst → step s = .refused .badLabel) ∧
    (∀ zeros, (opField w, zeros) ∈ labelZeroBits → w &&& zeros ≠ 0 → step s = .refused .badLabel)

/-- R78: every form of the table carries the numbers it accepts unchanged into its fields, and refuses a list of
another length and a number at or above its bound; there are no other forms; a line is what its mnemonic's
form makes of its operands; a decimal or `0x` number is read as that number; what is accepted is well-formed.
(Blanks and letter case are log entry 14's.) -/
def Obligations.AssembledInstructionsFitTheirFields : Prop :=
  (∀ row ∈ asmRows, ∃ form, asmForm row.mnemonic = some form ∧ ∀ xs : List Nat,
    (xs.length ≠ row.bounds.length → form xs = .error .operandCount) ∧
    (xs.length = row.bounds.length → (∃ p ∈ xs.zip row.bounds, p.2 ≤ p.1) →
      form xs = .error .operandTooWide) ∧
    (xs.length = row.bounds.length → (∀ p ∈ xs.zip row.bounds, p.1 < p.2) →
      ∃ i, form xs = .ok i ∧ opcode i = row.op ∧ operandA i = row.valueA xs ∧
        (operandB i).toNat = row.valueB xs)) ∧
  (∀ m, m ∉ asmRows.map AsmRow.mnemonic → asmForm m = none) ∧
  (∀ (line m rest : List Char) (form : List Nat → Except AsmError Instr) (xs : List Nat),
    trimBlanks (stripComment line) = m ++ rest → (∀ c ∈ m, isBlank c = false) →
    (∀ c ∈ rest.head?, isBlank c = true) → asmForm m = some form →
    parseNumbers (operandParts rest) = .ok xs → assembleLine line = (form xs).map some) ∧
  (∀ n, parseNumber (Nat.toDigits 10 n) = .ok n ∧
    parseNumber ('0' :: 'x' :: Nat.toDigits 16 n) = .ok n) ∧
  (∀ (line : List Char) (i : Instr), assembleLine line = .ok (some i) → i.wf = true)

/-! ### The step, reset and the configuration -/

/-- R81, R76: a command word, or an event label, that decodes to a step makes `step` run exactly that step
on the state without that stimulus. -/
def Obligations.StepRunsTheDecodedInstruction : Prop :=
  ∀ (s : State) (w : CmdWord) (i : Instr) (rest : List Stimulus),
    configValid s.cfg = true → decode w = .instr i →
    (s.inputs = .command w :: rest → isEvent i = false → step s = exec i { s with inputs := rest }) ∧
    (s.inputs = .label w :: rest → isEvent i = true → step s = exec i { s with inputs := rest })

/-- R3: a configuration that breaks any clause of the rule is refused; one that breaks none is not. -/
def Obligations.BadConfigurationsAreRefused : Prop :=
  ∀ s : State,
    let c := s.cfg
    let words := 2 * c.workers * c.chunk
    let legal := 1 ≤ c.workers ∧ c.workers ≤ 32 ∧ 1 ≤ c.chunk ∧ words ≤ 65536 ∧
      (c.role = .worker → c.workerId < c.workers) ∧ 1 ≤ c.xferLen ∧
      c.txBase + c.xferLen ≤ words ∧ c.rxBase + c.xferLen ≤ words ∧
      1 ≤ c.txFifoDepth ∧ 1 ≤ c.rxFifoDepth ∧ 1 ≤ c.gran ∧ c.gran < 2 ^ 32 ∧
      1 ≤ c.timerCount ∧ c.timerCount ≤ 65535
    (¬ legal → step s = .refused .badConfig) ∧ (legal → step s ≠ .refused .badConfig)

/-- R20: no step changes the configuration; a step takes exactly the first stimulus, and with none left
nothing changes (both are the model's, log entry 3). -/
def Obligations.StepTakesOneStimulusAndKeepsTheConfiguration : Prop :=
  (∀ s t : State, step s = .next t → t.cfg = s.cfg ∧ t.inputs = s.inputs.tail) ∧
  (∀ s : State, configValid s.cfg = true → s.inputs = [] → step s = .next s)

/-- R260, R261: the reset stimulus, taken in any state, leaves every element at the value of R260's table. -/
def Obligations.ResetSetsEveryElement : Prop :=
  ∀ (s : State) (rest : List Stimulus),
    configValid s.cfg = true → s.inputs = .reset :: rest →
    ∃ t, step s = .next t ∧
      t.tableValid = false ∧ t.crcResult = none ∧ t.crcMatch = none ∧ (∀ a, bufGet t a = none) ∧
      (s.cfg.role = .worker → t.csPin = s.cfg.csPinInit) ∧
      (s.cfg.role = .controller → (status t).getLsbD 13 = true) ∧ t.csIrq = false ∧ t.lastLevel = true ∧
      t.pendTx = false ∧ t.pendRx = false ∧ t.rxEn = false ∧
      t.txCh = .idle ∧ t.txIdx = 0 ∧ t.rxCh = .idle ∧ t.rxIdx = 0 ∧ t.txFifo = [] ∧ t.rxFifo = [] ∧
      t.ctlLeft = 0 ∧ t.ovrCnt = 0 ∧ t.misCnt = 0 ∧ t.misMask = 0 ∧ t.txBytes = 0 ∧ t.rxBytes = 0 ∧
      t.diag = [] ∧ t.wireOut = [] ∧ t.live = false ∧ t.now = 0 ∧
      t.timers.length = s.cfg.timerCount ∧ (∀ k, slotAt t k = ⟨.idle, none, none⟩) ∧
      t.tlist = [] ∧ t.expq = [] ∧ t.rdData = none ∧ t.popResult = none ∧
      t.faulted = false ∧ t.fcode = 0 ∧ t.fop = 0 ∧ t.farg = 0

/-! ### Invariants every step keeps -/

/-- The reset state of every legal configuration meets every invariant, and so does `State.reset`. Of these,
CS_PIN = 1 in a controller is the model's choice (log entry 15), MIS_MASK's upper bits are those of the
model's 32-bit field (log entry 11), and the configuration of `State.reset` is log entry 2's. -/
def Obligations.ResetMeetsTheInvariants : Prop :=
  (∀ c : Config, configValid c = true → Inv (State.resetWith c)) ∧ Inv State.reset

/-- R42: the timer invariant, kept by every step. -/
def Obligations.TimerInvariantIsKept : Prop :=
  ∀ s t : State, TimerInv s → step s = .next t → TimerInv t

/-- R28 to R33, R35, R134, R141, R142, R147: the bounds of indices, FIFOs and counts and the agreement of the
pending flags with the channels, kept by every step. That CS_PIN is 1 in a controller is the model's choice
(log entry 15); that the mask stays below 2^W bounds the model's 32-bit field (log entry 11). -/
def Obligations.TransferInvariantIsKept : Prop :=
  ∀ s t : State, TransferInv s → step s = .next t → TransferInv t

/-- R50, R68: the buffer stays in canonical form and holds words at buffer addresses only. -/
def Obligations.BufferStaysCanonicalAndInside : Prop :=
  ∀ s t : State, BufferInv s → step s = .next t → BufferInv t

/-- R34, R151, R44, R221, R22: the counters count DIAG's records, and the latch and the CRC results are as
their rules say, after every step. -/
def Obligations.CountersAndLatchAgreeWithTheirRules : Prop :=
  ∀ s t : State, DiagInv s → LatchInv s → step s = .next t → DiagInv t ∧ LatchInv t

/-- The model's own stops (log entry 10) are never reached from a state the invariants hold in. -/
def Obligations.ModelStopsAreUnreachable : Prop :=
  ∀ (s : State) (r : Fault), Inv s → step s ≠ .fault r

/-! ### Faults (60_exceptions.md) -/

/-- R220, R223, R224: when a step raises a fault, the state is the one before it plus the latch, FOP is the
step's OP, and among the events only DMA.RX_ISR and REG.READ can raise one. (`readOut` is no state of the
block, log entry 6.) -/
def Obligations.FaultsArePrecise : Prop :=
  ∀ (i : Instr) (s t : State), s.faulted = false → exec i s = .next t → t.faulted = true →
    t = { s with
      readOut := t.readOut, faulted := true, fcode := t.fcode, fop := opcode i, farg := t.farg } ∧
    1 ≤ t.fcode.toNat ∧ t.fcode.toNat ≤ 9 ∧
    ((∀ r, i ≠ .regRead r) → t.readOut = s.readOut) ∧
    (isEvent i = true → i = .dmaRxIsr ∨ ∃ r, i = .regRead r)

/-- R81, R224, R76 as log entry 7 reads them: while FAULTED = 1 a command word is not taken and changes
nothing, and no event but a register read is enabled. -/
def Obligations.FaultedBlockIsStuck : Prop :=
  ∀ (s : State) (w : CmdWord) (rest : List Stimulus), configValid s.cfg = true → s.faulted = true →
    (s.inputs = .command w :: rest → step s = .next { s with inputs := rest }) ∧
    (s.inputs = .label w :: rest → ∀ i, decode w = .instr i → isEvent i = true →
      (∀ r, i ≠ .regRead r) → step s = .refused .notEnabled)

/-- R225: only reset clears FAULTED; without it the first fault stays latched and no element of the block
changes. -/
def Obligations.OnlyResetLeavesAFault : Prop :=
  ∀ s t : State, s.faulted = true → step s = .next t →
    t = { s with inputs := t.inputs, readOut := t.readOut } ∨ ∃ rest, s.inputs = .reset :: rest

/-! ### CRC unit (40_crc.md) -/

/-- R105: the table-driven CRC of words is the bit-serial CRC of their bytes, high byte first; its value for the
ASCII bytes "123456789" is 0x29B1. -/
def Obligations.TableCrcEqualsBitSerialCrc : Prop :=
  (∀ bs : List (Byte × Byte),
    crcWords (bs.map fun b => (b.1 ++ b.2 : BitVec 16)) = crcSerial (bs.flatMap fun b => [b.1, b.2])) ∧
  crcSerial [0x31, 0x32, 0x33, 0x34, 0x35, 0x36, 0x37, 0x38, 0x39] = 0x29B1

/-- R111: a single-bit change of the payload changes the CRC, and a single-bit change of a correct header no
longer equals it. -/
def Obligations.EverySingleBitFlipIsDetected : Prop :=
  (∀ (ws : List Word) (i b : Nat) (h : i < ws.length), b < 16 →
    crcWords (ws.set i (ws[i] ^^^ ((1 : Word) <<< b))) ≠ crcWords ws) ∧
  (∀ (ws : List Word) (header : Word) (b : Nat), b < 16 → crcWords ws = header →
    crcWords ws ≠ header ^^^ ((1 : Word) <<< b))

/-- R83, R101: NOP changes nothing, CRC.INIT sets TABLE_VALID and nothing else. -/
def Obligations.NopAndCrcInitComplete : Prop :=
  ∀ s : State, s.faulted = false →
    exec .nop s = .next s ∧ exec .crcInit s = .next { s with tableValid := true }

/-- R106: CRC.COMPUTE over readable words sets CRC_RESULT to their CRC and changes nothing else. -/
def Obligations.CrcComputeSetsTheResult : Prop :=
  ∀ (s : State) (a n : Nat), s.faulted = false → a + n ≤ bufWords s.cfg → s.tableValid = true →
    (∀ x ∈ spanAddrs a n, Readable s x) →
    exec (.crcCompute a n) s =
      .next { s with crcResult := some (crcWords ((spanAddrs a n).map (wordAt s))) }

/-- R106, R222, R226: the faults of CRC.COMPUTE, in check order. -/
def Obligations.CrcComputeFaultsInOrder : Prop :=
  ∀ (s : State) (a n : Nat), s.faulted = false →
    (bufWords s.cfg < a + n → exec (.crcCompute a n) s = .next (latched 0x04 0x02 a s)) ∧
    (a + n ≤ bufWords s.cfg → s.tableValid = false →
      exec (.crcCompute a n) s = .next (latched 0x03 0x02 0 s)) ∧
    (a + n ≤ bufWords s.cfg → s.tableValid = true → ∀ x, FirstFailing (Readable s) (spanAddrs a n) x →
      exec (.crcCompute a n) s = .next (latched (readFault s x) 0x02 x s))

/-- R107: CRC.STAMP writes the payload's CRC to the header and to CRC_RESULT; every other word of the buffer
and every other element is unchanged. -/
def Obligations.CrcStampWritesTheHeader : Prop :=
  ∀ (s : State) (k : Nat), configValid s.cfg = true → s.faulted = false → k < 2 * s.cfg.workers →
    s.tableValid = true → (∀ x ∈ payloadAddrs s.cfg k, Readable s x) →
    writeRace s (headerAddr s.cfg k) = false →
    ∃ t, exec (.crcStamp k) s = .next t ∧
      t = { s with buf := t.buf, crcResult := some (crcWords (payloadOf s k)) } ∧
      bufGet t (headerAddr s.cfg k) = some (crcWords (payloadOf s k)) ∧
      ∀ x, x ≠ headerAddr s.cfg k → bufGet t x = bufGet s x

/-- R108: CRC.CHECK sets CRC_RESULT and CRC_MATCH and nothing else. -/
def Obligations.CrcCheckComparesTheHeader : Prop :=
  ∀ (s : State) (k : Nat), configValid s.cfg = true → s.faulted = false → k < 2 * s.cfg.workers →
    s.tableValid = true → (∀ x ∈ payloadAddrs s.cfg k, Readable s x) →
    Readable s (headerAddr s.cfg k) →
    exec (.crcCheck k) s = .next { s with
      crcResult := some (crcWords (payloadOf s k))
      crcMatch := some (decide (crcWords (payloadOf s k) = wordAt s (headerAddr s.cfg k))) }

/-- R107, R108, R222, R226: the faults of CRC.STAMP and CRC.CHECK, in check order. -/
def Obligations.CrcStampAndCheckFaultInOrder : Prop :=
  ∀ (s : State) (k : Nat), configValid s.cfg = true → s.faulted = false →
    (2 * s.cfg.workers ≤ k →
      exec (.crcStamp k) s = .next (latched 0x05 0x03 k s) ∧
      exec (.crcCheck k) s = .next (latched 0x05 0x04 k s)) ∧
    (k < 2 * s.cfg.workers → s.tableValid = false →
      exec (.crcStamp k) s = .next (latched 0x03 0x03 0 s) ∧
      exec (.crcCheck k) s = .next (latched 0x03 0x04 0 s)) ∧
    (k < 2 * s.cfg.workers → s.tableValid = true →
      (∀ x, FirstFailing (Readable s) (payloadAddrs s.cfg k) x →
        exec (.crcStamp k) s = .next (latched (readFault s x) 0x03 x s)) ∧
      ((∀ x ∈ payloadAddrs s.cfg k, Readable s x) → writeRace s (headerAddr s.cfg k) = true →
        exec (.crcStamp k) s = .next (latched 0x08 0x03 (headerAddr s.cfg k) s)) ∧
      (∀ x, FirstFailing (Readable s) (payloadAddrs s.cfg k ++ [headerAddr s.cfg k]) x →
        exec (.crcCheck k) s = .next (latched (readFault s x) 0x04 x s)))

/-- R108: a chunk that has just been stamped checks as a match. -/
def Obligations.StampedChunkAlwaysChecks : Prop :=
  ∀ (s t : State) (k : Nat), configValid s.cfg = true → s.faulted = false →
    exec (.crcStamp k) s = .next t → t.faulted = false →
    exec (.crcCheck k) t = .next { t with crcMatch := some true }

/-! ### FX unit (41_frame_exchange.md) -/

/-- R131, R132: the two chip-select notifications, their labels, and where they are not enabled. -/
def Obligations.ChipSelectNotificationsLatch : Prop :=
  decode 0x8100000000000000 = .instr (.csPin false) ∧
  decode 0x8100000000000001 = .instr (.csPin true) ∧
  decode 0x8200000000000000 = .instr .csGlitch ∧
  ∀ (s : State) (level : Bool), s.faulted = false →
    (s.cfg.role = .worker ∧ level ≠ s.csPin →
      exec (.csPin level) s = .next { s with csPin := level, csIrq := true }) ∧
    (¬ (s.cfg.role = .worker ∧ level ≠ s.csPin) → exec (.csPin level) s = .refused .notEnabled) ∧
    (s.cfg.role = .worker → exec .csGlitch s = .next { s with csIrq := true }) ∧
    (s.cfg.role ≠ .worker → exec .csGlitch s = .refused .notEnabled)

/-- R133, R134, R135, R148: the chip-select handler does nothing at an unchanged level, arms at a falling
edge, closes the frame at a rising one, and is enabled by CS_IRQ only. -/
def Obligations.ChipSelectHandlerActsOnEdges : Prop :=
  decode 0x8300000000000000 = .instr .csIsr ∧
  ∀ s : State, s.faulted = false →
    (s.cfg.role = .worker → s.csIrq = true →
      (s.csPin = s.lastLevel → exec .csIsr s = .next { s with csIrq := false }) ∧
      (s.csPin = false → s.lastLevel = true →
        exec .csIsr s = .next { s with
          csIrq := false, lastLevel := false
          ovrCnt := if s.pendTx = true ∨ s.pendRx = true then s.ovrCnt + 1 else s.ovrCnt
          diag := if s.pendTx = true ∨ s.pendRx = true then s.diag ++ [.overrun] else s.diag
          txCh := .run, txIdx := 0, pendTx := true
          rxCh := .run, rxIdx := 0, pendRx := true, rxEn := true }) ∧
      (s.csPin = true → s.lastLevel = false →
        exec .csIsr s = .next { s with
          csIrq := false, lastLevel := true, txBytes := 2 * s.txIdx, rxBytes := 2 * s.rxIdx
          diag := s.diag ++ [.frameClosed (2 * s.txIdx) (2 * s.rxIdx)] })) ∧
    (¬ (s.cfg.role = .worker ∧ s.csIrq = true) → exec .csIsr s = .refused .notEnabled)

/-- R133, R154: however many notifications at one level are handled, nothing but CS_IRQ changes; and a low pulse
that ends before the handler runs arms and closes nothing. -/
def Obligations.NoiseAndMissedPulsesArmNothing : Prop :=
  ∀ s : State, s.faulted = false → s.cfg.role = .worker → s.csPin = s.lastLevel →
    (∀ n, execAll ((List.replicate (n + 1) [Instr.csGlitch, Instr.csIsr]).flatten) s =
      some { s with csIrq := false }) ∧
    execAll [.csPin (!s.csPin), .csPin s.csPin, .csIsr] s = some { s with csIrq := false }

/-- R136, R148: FX.TRIGGER arms a transfer and sets CTL_LEFT on a controller, and latches ROLE on a worker. -/
def Obligations.TriggerArmsTheControllerOrFaults : Prop :=
  ∀ s : State, s.faulted = false →
    (s.cfg.role = .controller →
      exec .fxTrigger s = .next { s with
        ovrCnt := if s.pendTx = true ∨ s.pendRx = true then s.ovrCnt + 1 else s.ovrCnt
        diag := if s.pendTx = true ∨ s.pendRx = true then s.diag ++ [.overrun] else s.diag
        txCh := .run, txIdx := 0, pendTx := true
        rxCh := .run, rxIdx := 0, pendRx := true, rxEn := true
        ctlLeft := BitVec.ofNat 32 s.cfg.xferLen }) ∧
    (s.cfg.role = .worker → exec .fxTrigger s = .next (latched 0x09 0x11 0 s))

/-- R137, R138: one word time of the link, and where it is not enabled. -/
def Obligations.LinkWordExchangesOneWord : Prop :=
  ∀ (s : State) (p : Word), s.faulted = false →
    decode ((0x840000000000 : BitVec 48) ++ p) = .instr (.linkWord p) ∧
    let active := (s.cfg.role = .worker ∧ s.csPin = false) ∨
      (s.cfg.role = .controller ∧ 0 < s.ctlLeft.toNat)
    (active → exec (.linkWord p) s = .next { s with
      txFifo := s.txFifo.tail
      wireOut := s.wireOut ++ [s.txFifo.headD none]
      rxFifo :=
        if s.rxEn = true ∧ s.rxFifo.length < s.cfg.rxFifoDepth then s.rxFifo ++ [p] else s.rxFifo
      ctlLeft := if s.cfg.role = .controller then s.ctlLeft - 1 else s.ctlLeft }) ∧
    (¬ active → exec (.linkWord p) s = .refused .notEnabled)

/-- R139, R141: the transmit channel moves one word as it is, becomes DONE with the last, and its handler clears
PEND_TX; and where the two are not enabled. -/
def Obligations.TransmitChannelMovesAndCompletes : Prop :=
  decode 0x8500000000000000 = .instr .dmaTxStep ∧ decode 0x8700000000000000 = .instr .dmaTxIsr ∧
  ∀ s : State, configValid s.cfg = true → s.faulted = false →
    (s.txCh = .run → s.txFifo.length < s.cfg.txFifoDepth → s.txIdx.toNat < s.cfg.xferLen →
      exec .dmaTxStep s = .next { s with
        txFifo := s.txFifo ++ [bufGet s (s.cfg.txBase + s.txIdx.toNat)]
        txIdx := s.txIdx + 1
        txCh := if s.txIdx.toNat + 1 = s.cfg.xferLen then .done else .run }) ∧
    (s.txCh ≠ .run ∨ s.cfg.txFifoDepth ≤ s.txFifo.length →
      exec .dmaTxStep s = .refused .notEnabled) ∧
    (s.txCh = .done → exec .dmaTxIsr s = .next { s with pendTx := false, txCh := .idle }) ∧
    (s.txCh ≠ .done → exec .dmaTxIsr s = .refused .notEnabled)

/-- R140: the receive channel writes the head of RXFIFO to RX_BASE + RX_IDX; every other word of the buffer and
every other element is unchanged; and where it is not enabled. -/
def Obligations.ReceiveChannelStoresTheFifoHead : Prop :=
  decode 0x8600000000000000 = .instr .dmaRxStep ∧
  ∀ s : State, configValid s.cfg = true → s.faulted = false →
    (∀ p q, s.rxCh = .run → s.rxFifo = p :: q → s.rxIdx.toNat < s.cfg.xferLen →
      ∃ t, exec .dmaRxStep s = .next t ∧
        t = { s with
          buf := t.buf, rxFifo := q, rxIdx := s.rxIdx + 1
          rxCh := if s.rxIdx.toNat + 1 = s.cfg.xferLen then .done else .run } ∧
        bufGet t (s.cfg.rxBase + s.rxIdx.toNat) = some p ∧
        ∀ x, x ≠ s.cfg.rxBase + s.rxIdx.toNat → bufGet t x = bufGet s x) ∧
    (s.rxCh ≠ .run ∨ s.rxFifo = [] → exec .dmaRxStep s = .refused .notEnabled)

/-- R142, R143: the receive-complete handler ends reception and verifies every received chunk in ascending slot
order: MIS_MASK shows the mismatching slots, MIS_CNT and DIAG count and list them. -/
def Obligations.ReceiveHandlerVerifiesEverySlot : Prop :=
  ∀ s : State, configValid s.cfg = true → s.faulted = false →
    (s.rxCh = .done → s.tableValid = true →
      (∀ k < s.cfg.workers, ∀ x ∈ payloadAddrs s.cfg (receivedChunk s.cfg k) ++
        [headerAddr s.cfg (receivedChunk s.cfg k)], Written s x) →
      let bad := (List.range s.cfg.workers).filter fun k => !chunkMatches s (receivedChunk s.cfg k)
      ∃ t, exec .dmaRxIsr s = .next t ∧
        t = { s with
          pendRx := false, rxCh := .idle, rxEn := false, rxFifo := []
          misMask := t.misMask, misCnt := s.misCnt + BitVec.ofNat 32 bad.length
          diag := s.diag ++ bad.map .crcMismatch } ∧
        ∀ k, t.misMask.getLsbD k = if k < s.cfg.workers then decide (k ∈ bad) else s.misMask.getLsbD k) ∧
    (s.rxCh ≠ .done → exec .dmaRxIsr s = .refused .notEnabled)

/-- R142, R143, R227: the faults of the receive-complete handler, in check order; RXCH stays DONE and no other
write is made. -/
def Obligations.ReceiveHandlerFaultsInOrder : Prop :=
  ∀ s : State, configValid s.cfg = true → s.faulted = false → s.rxCh = .done →
    (s.tableValid = false → exec .dmaRxIsr s = .next (latched 0x03 0x88 0 s)) ∧
    (s.tableValid = true → ∀ x,
      FirstFailing (Written s) ((List.range s.cfg.workers).flatMap fun k =>
        payloadAddrs s.cfg (receivedChunk s.cfg k) ++ [headerAddr s.cfg (receivedChunk s.cfg k)]) x →
      exec .dmaRxIsr s = .next (latched 0x07 0x88 x s))

/-- R60, R144: FX.REFRESH writes each owned chunk's CRC to its header and toggles LIVE; every other word of the
buffer and every other element, CRC_RESULT among them, is unchanged. -/
def Obligations.RefreshStampsTheOwnedChunks : Prop :=
  ∀ s : State, configValid s.cfg = true → s.faulted = false → s.tableValid = true →
    let owned := match s.cfg.role with
      | .worker => [s.cfg.workerId]
      | .controller => List.range s.cfg.workers
    (∀ k ∈ owned, (∀ x ∈ payloadAddrs s.cfg k, Readable s x) ∧
      writeRace s (headerAddr s.cfg k) = false) →
    ∃ t, exec .fxRefresh s = .next t ∧ t = { s with buf := t.buf, live := !s.live } ∧
      (∀ k ∈ owned, bufGet t (headerAddr s.cfg k) = some (crcWords (payloadOf s k))) ∧
      ∀ x, (∀ k ∈ owned, x ≠ headerAddr s.cfg k) → bufGet t x = bufGet s x

/-- R144, R222, R226: the faults of FX.REFRESH, in check order; a fault on a later chunk undoes the stamps of
the earlier ones. -/
def Obligations.RefreshFaultsInOrder : Prop :=
  ∀ s : State, configValid s.cfg = true → s.faulted = false →
    let owned := match s.cfg.role with
      | .worker => [s.cfg.workerId]
      | .controller => List.range s.cfg.workers
    (s.tableValid = false → exec .fxRefresh s = .next (latched 0x03 0x10 0 s)) ∧
    (s.tableValid = true → ∀ before k after, owned = before ++ k :: after →
      (∀ j ∈ before, (∀ x ∈ payloadAddrs s.cfg j, Readable s x) ∧
        writeRace s (headerAddr s.cfg j) = false) →
      (∀ x, FirstFailing (Readable s) (payloadAddrs s.cfg k) x →
        exec .fxRefresh s = .next (latched (readFault s x) 0x10 x s)) ∧
      ((∀ x ∈ payloadAddrs s.cfg k, Readable s x) → writeRace s (headerAddr s.cfg k) = true →
        exec .fxRefresh s = .next (latched 0x08 0x10 (headerAddr s.cfg k) s)))

/-- R145: BUF.WRITE stores its word at a and changes no other word and no other element, or faults in check
order. -/
def Obligations.BufferWriteStoresOrFaults : Prop :=
  ∀ (s : State) (a : Nat) (v : Word), s.faulted = false →
    (bufWords s.cfg ≤ a → exec (.bufWrite a v) s = .next (latched 0x04 0x30 a s)) ∧
    (a < bufWords s.cfg → writeRace s a = true →
      exec (.bufWrite a v) s = .next (latched 0x08 0x30 a s)) ∧
    (a < bufWords s.cfg → writeRace s a = false →
      ∃ t, exec (.bufWrite a v) s = .next t ∧ t = { s with buf := t.buf } ∧
        bufGet t a = some v ∧ ∀ x, x ≠ a → bufGet t x = bufGet s x)

/-- R146: BUF.READ sets RD_DATA to the word at a and changes nothing else, or faults in check order. -/
def Obligations.BufferReadReturnsOrFaults : Prop :=
  ∀ (s : State) (a : Nat), s.faulted = false →
    (bufWords s.cfg ≤ a → exec (.bufRead a) s = .next (latched 0x04 0x31 a s)) ∧
    (a < bufWords s.cfg → readRace s a = true →
      exec (.bufRead a) s = .next (latched 0x08 0x31 a s)) ∧
    (a < bufWords s.cfg → readRace s a = false → bufGet s a = none →
      exec (.bufRead a) s = .next (latched 0x07 0x31 a s)) ∧
    (∀ w, a < bufWords s.cfg → readRace s a = false → bufGet s a = some w →
      exec (.bufRead a) s = .next { s with rdData := some w })

/-- R147: in the controller role the chip-select events are refused and CS_PIN, CS_IRQ and LAST_LEVEL keep their
values at every step but a reset; in the worker role FX.TRIGGER changes nothing but the latch and CTL_LEFT
stays 0. -/
def Obligations.RolesRestrictSteps : Prop :=
  (∀ (s : State) (level : Bool), s.cfg.role = .controller →
    exec (.csPin level) s = .refused .notEnabled ∧ exec .csGlitch s = .refused .notEnabled ∧
      exec .csIsr s = .refused .notEnabled) ∧
  (∀ (s t : State) (i : Instr), s.cfg.role = .controller → exec i s = .next t →
    t.csPin = s.csPin ∧ t.csIrq = s.csIrq ∧ t.lastLevel = s.lastLevel) ∧
  (∀ (s t : State) (i : Instr), s.cfg.role = .worker → s.ctlLeft = 0 → exec i s = .next t →
    t.ctlLeft = 0) ∧
  (∀ s : State, s.cfg.role = .worker → s.faulted = false →
    exec .fxTrigger s = .next (latched 0x09 0x11 0 s))

/-- R150: two blocks that differ only in what they received end the receive-complete handler with the same
exchange state: a mismatch shows in MIS_MASK, MIS_CNT and DIAG only. -/
def Obligations.MismatchNeverChangesTheExchange : Prop :=
  ∀ (s t u : State) (received : Memory),
    exec .dmaRxIsr s = .next t → exec .dmaRxIsr { s with buf := received } = .next u →
    t.faulted = false → u.faulted = false →
    u = { t with buf := received, misMask := u.misMask, misCnt := u.misCnt, diag := u.diag }

/-- R56: the chunks tile the buffer; each role's formula gives every worker one measurement and one setpoint
chunk, all different, which together are all chunks. -/
def Obligations.ChunksTileTheBuffer : Prop :=
  ∀ c : Config, configValid c = true →
    (∀ w, (c.role = .worker → measPtr c w = w * c.chunk ∧ setPtr c w = (c.workers + w) * c.chunk) ∧
      (c.role = .controller → measPtr c w = (c.workers + w) * c.chunk ∧ setPtr c w = w * c.chunk)) ∧
    (∀ a < bufWords c, ∃ k, k < 2 * c.workers ∧ (∃ w < c.workers, k = measChunk c w ∨ k = setChunk c w) ∧
      k * c.chunk ≤ a ∧ a < k * c.chunk + c.chunk ∧
      ∀ k', k' * c.chunk ≤ a → a < k' * c.chunk + c.chunk → k' = k) ∧
    (∀ v < c.workers, ∀ w < c.workers, measPtr c v ≠ setPtr c w ∧
      (measPtr c v = measPtr c w → v = w) ∧ (setPtr c v = setPtr c w → v = w))

/-- R63, R265: while the transfer window is open no command changes a word of the transmit or the receive
region. -/
def Obligations.NoCommandWritesFrameRegionsInTheWindow : Prop :=
  ∀ (i : Instr) (s t : State), isEvent i = false → window s = true → exec i s = .next t →
    ∀ a, inTxr s.cfg a = true ∨ inRxr s.cfg a = true → bufGet t a = bufGet s a

/-- R153, R155, R137: a worker just selected, or a controller that is triggered, moves a whole frame in
XFER_LEN rounds of channel, link, channel, wherever the two regions lie; a controller's link is then not
active any more, and after a trigger it clocks exactly XFER_LEN words, in whatever order the steps come:
those clocked and CTL_LEFT always make XFER_LEN, and the link is active as long as some are left. -/
def Obligations.FrameMovesEveryWord : Prop :=
  (∀ (s : State) (ps : List Word), configValid s.cfg = true → s.faulted = false →
    s.txFifo = [] → s.rxFifo = [] → ps.length = s.cfg.xferLen →
    (s.cfg.role = .worker → s.csPin = false → s.lastLevel = true → s.csIrq = true →
      ∃ u, execAll (.csIsr :: frameSteps ps) s = some u ∧ FrameMoved s u ps) ∧
    (s.cfg.role = .controller →
      ∃ u, execAll (.fxTrigger :: frameSteps ps) s = some u ∧ FrameMoved s u ps ∧ u.ctlLeft = 0 ∧
        ∀ p, exec (.linkWord p) u = .refused .notEnabled)) ∧
  (∀ (s u : State) (is : List Instr), configValid s.cfg = true → s.faulted = false →
    s.cfg.role = .controller → .fxTrigger ∉ is → execAll (.fxTrigger :: is) s = some u →
    is.countP isLinkWord + u.ctlLeft.toNat = s.cfg.xferLen ∧
    (u.faulted = false → ∀ p, enabled (.linkWord p) u = decide (is.countP isLinkWord < s.cfg.xferLen)))

/-- R231, R273: the block's own steps cannot go on for ever: from a state with the invariants at most
TXFIFO_DEPTH + RXFIFO_DEPTH + 5 of them can follow one another, and some sequence of them reaches a quiescent
state. -/
def Obligations.InternalStepsReachQuiescence : Prop :=
  ∀ s : State, Inv s →
    (∀ (is : List Instr) (u : State), (∀ i ∈ is, i ∈ internalSteps) → execAll is s = some u →
      is.length ≤ s.cfg.txFifoDepth + s.cfg.rxFifoDepth + 5) ∧
    ∃ (is : List Instr) (u : State), (∀ i ∈ is, i ∈ internalSteps) ∧ execAll is s = some u ∧
      quiescent u = true

/-! ### TMR unit (42_timer.md) -/

/-- R184: TMR.START faults beyond the slots, is rejected silently below G, arms an idle timer at the tail of
TLIST, and only rewrites REM and RLD of an armed or fired one. Every other slot and element is unchanged. -/
def Obligations.TimerStartArmsIdleTimers : Prop :=
  ∀ (s : State) (t : Nat) (p : U32), TimerInv s → s.faulted = false →
    (s.cfg.timerCount ≤ t → exec (.tmrStart t p) s = .next (latched 0x06 0x20 t s)) ∧
    (t < s.cfg.timerCount → p.toNat < s.cfg.gran → exec (.tmrStart t p) s = .next s) ∧
    (t < s.cfg.timerCount → s.cfg.gran ≤ p.toNat → (slotAt s t).st = .idle →
      ∃ u, exec (.tmrStart t p) s = .next u ∧
        u = { s with timers := u.timers, tlist := s.tlist ++ [t] } ∧
        slotAt u t = ⟨.armed, some p, some p⟩ ∧ ∀ x, x ≠ t → slotAt u x = slotAt s x) ∧
    (t < s.cfg.timerCount → s.cfg.gran ≤ p.toNat → (slotAt s t).st ≠ .idle →
      ∃ u, exec (.tmrStart t p) s = .next u ∧ u = { s with timers := u.timers } ∧
        slotAt u t = ⟨(slotAt s t).st, some p, some p⟩ ∧ ∀ x, x ≠ t → slotAt u x = slotAt s x)

/-- R185: TMR.STOP takes an armed timer out of TLIST, keeps its REM and the order of the others, and does nothing
to an idle or a fired one. -/
def Obligations.TimerStopRemovesArmedTimers : Prop :=
  ∀ (s : State) (t : Nat), TimerInv s → s.faulted = false →
    (s.cfg.timerCount ≤ t → exec (.tmrStop t) s = .next (latched 0x06 0x21 t s)) ∧
    (t < s.cfg.timerCount → (slotAt s t).st ≠ .armed → exec (.tmrStop t) s = .next s) ∧
    (t < s.cfg.timerCount → (slotAt s t).st = .armed →
      ∃ u, exec (.tmrStop t) s = .next u ∧
        u = { s with timers := u.timers, tlist := s.tlist.filter (· ≠ t) } ∧
        slotAt u t = ⟨.idle, (slotAt s t).rem, (slotAt s t).rld⟩ ∧
        ∀ x, x ≠ t → slotAt u x = slotAt s x)

/-- R186: TMR.RESTART reloads REM from RLD and arms an idle timer; a slot never started faults. -/
def Obligations.TimerRestartReloads : Prop :=
  ∀ (s : State) (t : Nat), TimerInv s → s.faulted = false →
    (s.cfg.timerCount ≤ t → exec (.tmrRestart t) s = .next (latched 0x06 0x22 t s)) ∧
    (t < s.cfg.timerCount → (slotAt s t).rld = none →
      exec (.tmrRestart t) s = .next (latched 0x07 0x22 t s)) ∧
    (∀ p, t < s.cfg.timerCount → (slotAt s t).rld = some p →
      ∃ u, exec (.tmrRestart t) s = .next u ∧
        u = { s with
          timers := u.timers
          tlist := if (slotAt s t).st = .idle then s.tlist ++ [t] else s.tlist } ∧
        slotAt u t = ⟨if (slotAt s t).st = .idle then .armed else (slotAt s t).st, some p, some p⟩ ∧
        ∀ x, x ≠ t → slotAt u x = slotAt s x)

/-- R187: TMR.POP takes the head of EXPQ and makes its timer idle, or answers 0xFFFF_FFFF. -/
def Obligations.TimerPopIsFirstInFirstOut : Prop :=
  ∀ s : State, TimerInv s → s.faulted = false →
    (s.expq = [] → exec .tmrPop s = .next { s with popResult := some 0xFFFFFFFF }) ∧
    (∀ t ts, s.expq = t :: ts →
      ∃ u, exec .tmrPop s = .next u ∧
        u = { s with timers := u.timers, expq := ts, popResult := some (BitVec.ofNat 32 t) } ∧
        slotAt u t = ⟨.idle, (slotAt s t).rem, (slotAt s t).rld⟩ ∧
        ∀ x, x ≠ t → slotAt u x = slotAt s x)

/-- R182, R183, R192, R193: one TICK advances NOW by G, fires exactly the armed timers with REM ≤ G, which enter
EXPQ in TLIST order, and subtracts G from the others, which keep their order. -/
def Obligations.TickFiresAndDecrements : Prop :=
  decode 0x8000000000000000 = .instr .tick ∧
  ∀ s : State, configValid s.cfg = true → TimerInv s → s.faulted = false →
    let fires := fun t => (slotAt s t).rem.any fun r => decide (r.toNat ≤ s.cfg.gran)
    ∃ u, exec .tick s = .next u ∧
      u = { s with
        now := s.now + BitVec.ofNat 32 s.cfg.gran, timers := u.timers
        tlist := s.tlist.filter fun t => !fires t
        expq := s.expq ++ s.tlist.filter fires } ∧
      (∀ t, t ∉ s.tlist → slotAt u t = slotAt s t) ∧
      ∀ t ∈ s.tlist, ∀ r, (slotAt s t).rem = some r →
        (r.toNat ≤ s.cfg.gran → slotAt u t = ⟨.fired, some 0, (slotAt s t).rld⟩) ∧
        (s.cfg.gran < r.toNat → ∃ r', r'.toNat = r.toNat - s.cfg.gran ∧
          slotAt u t = ⟨.armed, some r', (slotAt s t).rld⟩)

/-- R188: a timer started with period k·G fires after exactly k ticks: after fewer it is armed with k·G less G
for each tick, and after k it is in EXPQ with REM = 0. -/
def Obligations.TimerFiresAfterExactlyKTicks : Prop :=
  ∀ (s : State) (t k : Nat) (p : U32), configValid s.cfg = true → TimerInv s → s.faulted = false →
    t < s.cfg.timerCount → (slotAt s t).st = .idle → 1 ≤ k → p.toNat = k * s.cfg.gran →
    ∀ j ≤ k, ∃ u, execAll (.tmrStart t p :: List.replicate j .tick) s = some u ∧
      (j < k → (slotAt u t).st = .armed ∧ t ∉ u.expq ∧
        ∃ r, (slotAt u t).rem = some r ∧ r.toNat = p.toNat - j * s.cfg.gran) ∧
      (j = k → (slotAt u t).st = .fired ∧ (slotAt u t).rem = some 0 ∧ t ∈ u.expq)

/-- R189: an armed timer neither stopped nor started again counts down by G for each TICK, whatever other steps
come between, and fires on the first TICK that finds REM ≤ G. -/
def Obligations.PendingTimerCountsTicks : Prop :=
  ∀ (s u : State) (t : Nat) (p : U32) (is : List Instr), configValid s.cfg = true → TimerInv s →
    (slotAt s t).st = .armed → (slotAt s t).rem = some p →
    (∀ i ∈ is, i ≠ .tmrStop t ∧ i ≠ .tmrRestart t ∧ ∀ q, i ≠ .tmrStart t q) →
    execAll is s = some u → is.count .tick * s.cfg.gran < p.toNat →
    (slotAt u t).st = .armed ∧
    ∃ r, (slotAt u t).rem = some r ∧ r.toNat = p.toNat - is.count .tick * s.cfg.gran ∧
      (u.faulted = false → ∃ v, exec .tick u = .next v ∧
        (r.toNat ≤ s.cfg.gran → (slotAt v t).st = .fired ∧ (slotAt v t).rem = some 0 ∧ t ∈ v.expq) ∧
        (s.cfg.gran < r.toNat → (slotAt v t).st = .armed))

/-- R190, R191, R194, R195: a fired timer stays fired until TMR.POP reaches it; only TMR.START and TMR.RESTART
arm a timer, and only an idle one; and TLIST is only ever thinned out or extended at its tail. -/
def Obligations.TimersChangeStateByNamedStepsOnly : Prop :=
  ∀ (i : Instr) (s u : State), exec i s = .next u →
    (∀ t, (slotAt s t).st = .fired → (slotAt u t).st = .fired ∨
      (i = .tmrPop ∧ s.expq.head? = some t)) ∧
    (∀ t, (slotAt s t).st ≠ .armed → (slotAt u t).st = .armed →
      (slotAt s t).st = .idle ∧ ((∃ p, i = .tmrStart t p) ∨ i = .tmrRestart t)) ∧
    (u.tlist.Sublist s.tlist ∨
      ∃ t, u.tlist = s.tlist ++ [t] ∧ ((∃ p, i = .tmrStart t p) ∨ i = .tmrRestart t))

/-! ### Registers (10_state.md) and the whole machine -/

/-- R45, R46: what a read of each register returns; a read changes nothing, faulted or not, and an address outside
the map reads 0. (The value returned is kept in `readOut`, log entry 6.) -/
def Obligations.RegisterMapReads : Prop :=
  ∀ s : State,
    let reads := fun (r : Nat) (v : U32) => exec (.regRead r) s = .next { s with readOut := some v }
    (∀ c, s.crcResult = some c → reads 0x01 (c.setWidth 32)) ∧
    reads 0x02 s.ovrCnt ∧ reads 0x03 s.misCnt ∧
    (∃ v, reads 0x04 v ∧ ∀ k, v.getLsbD k = (decide (k < s.cfg.workers) && s.misMask.getLsbD k)) ∧
    reads 0x05 s.txBytes ∧ reads 0x06 s.rxBytes ∧ reads 0x07 s.now ∧
    (∃ v, reads 0x08 v ∧ v.extractLsb' 0 8 = s.fcode ∧ v.extractLsb' 8 8 = s.fop ∧
      v.extractLsb' 16 16 = s.farg) ∧
    (s.expq = [] → reads 0x09 0xFFFFFFFF) ∧
    (∀ t ts, s.expq = t :: ts → reads 0x09 (BitVec.ofNat 32 t)) ∧
    (∀ v, s.popResult = some v → reads 0x0A v) ∧
    (∀ d, s.rdData = some d → reads 0x0B (d.setWidth 32)) ∧
    reads 0x0C s.txIdx ∧ reads 0x0D s.rxIdx ∧ reads 0x0E s.ctlLeft ∧ reads 0x0F 0 ∧
    (∀ t < s.cfg.timerCount,
      reads (0x10 + 3 * t) (match (slotAt s t).st with | .idle => 0 | .armed => 1 | .fired => 2) ∧
      (∀ v, (slotAt s t).rem = some v → reads (0x11 + 3 * t) v) ∧
      (∀ v, (slotAt s t).rld = some v → reads (0x12 + 3 * t) v)) ∧
    (∀ r, 0x10 + 3 * s.cfg.timerCount ≤ r → reads r 0)

/-- R47, R48: the fields of STATUS, and its value at reset. -/
def Obligations.StatusShowsTheFlags : Prop :=
  (∀ s : State, ∃ v, exec (.regRead 0) s = .next { s with readOut := some v } ∧
    v.getLsbD 0 = s.tableValid ∧ v.getLsbD 1 = s.pendTx ∧ v.getLsbD 2 = s.pendRx ∧
    v.getLsbD 3 = s.rxEn ∧ v.getLsbD 4 = (decide (s.cfg.role = .controller) || s.lastLevel) ∧
    v.getLsbD 5 = s.live ∧ v.getLsbD 6 = decide (s.crcMatch = some true) ∧ v.getLsbD 7 = s.faulted ∧
    v.extractLsb' 8 2 = (match s.txCh with | .idle => 0 | .run => 1 | .done => 2) ∧
    v.extractLsb' 10 2 = (match s.rxCh with | .idle => 0 | .run => 1 | .done => 2) ∧
    v.getLsbD 12 = decide (s.expq ≠ []) ∧
    v.getLsbD 13 = (decide (s.cfg.role = .controller) || s.csPin) ∧
    v.getLsbD 14 = decide ((s.cfg.role = .worker ∧ s.lastLevel = false) ∨ s.txCh = .run ∨
      s.rxCh = .run ∨ (s.cfg.role = .controller ∧ 0 < s.ctlLeft.toNat)) ∧
    ∀ k, 15 ≤ k → v.getLsbD k = false) ∧
  (∀ c : Config, status (State.resetWith c) =
    if c.role = .worker ∧ c.csPinInit = false then 0x00000010 else 0x00002010)

/-- R45, R221, R224: a read of a register that is ⊥ latches UNWRITTEN_READ with FOP 0x90 and the address, or,
while faulted, leaves the latch as it is; it returns no value (log entry 6). -/
def Obligations.UnwrittenRegisterReadsFault : Prop :=
  ∀ (s : State) (r : Nat),
    ((r = 0x01 ∧ s.crcResult = none) ∨ (r = 0x0A ∧ s.popResult = none) ∨
      (r = 0x0B ∧ s.rdData = none) ∨
      (∃ t < s.cfg.timerCount, (r = 0x11 + 3 * t ∧ (slotAt s t).rem = none) ∨
        (r = 0x12 + 3 * t ∧ (slotAt s t).rld = none))) →
    (s.faulted = false →
      exec (.regRead r) s = .next { latched 0x07 0x90 r s with readOut := none }) ∧
    (s.faulted = true → exec (.regRead r) s = .next { s with readOut := none })

/-- R22 to R44, R61, R220: which steps write which element; the table is never unbuilt; DIAG and WIRE_OUT only
grow; the latch changes only when a step that may raise a fault raises one in an unfaulted state. The model's
own fields (log entries 1, 3, 6) stay too, but for REG.READ's value. -/
def Obligations.OnlyTheNamedStepsWriteEachElement : Prop :=
  ∀ (i : Instr) (s t : State), exec i s = .next t →
    (t.tableValid = s.tableValid ∨ (i = .crcInit ∧ t.tableValid = true)) ∧
    (t.crcResult = s.crcResult ∨ (∃ a n, i = .crcCompute a n) ∨ (∃ k, i = .crcStamp k) ∨
      ∃ k, i = .crcCheck k) ∧
    (t.crcMatch = s.crcMatch ∨ ∃ k, i = .crcCheck k) ∧
    (t.buf = s.buf ∨ (∃ k, i = .crcStamp k) ∨ i = .fxRefresh ∨ (∃ a v, i = .bufWrite a v) ∨
      i = .dmaRxStep) ∧
    (t.csPin = s.csPin ∨ ∃ l, i = .csPin l) ∧
    (t.csIrq = s.csIrq ∨ (∃ l, i = .csPin l) ∨ i = .csGlitch ∨ i = .csIsr) ∧
    (t.lastLevel = s.lastLevel ∨ i = .csIsr) ∧
    (t.pendTx = s.pendTx ∨ i = .csIsr ∨ i = .fxTrigger ∨ (i = .dmaTxIsr ∧ t.pendTx = false)) ∧
    (t.pendRx = s.pendRx ∨ i = .csIsr ∨ i = .fxTrigger ∨ (i = .dmaRxIsr ∧ t.pendRx = false)) ∧
    (t.rxEn = s.rxEn ∨ i = .csIsr ∨ i = .fxTrigger ∨ (i = .dmaRxIsr ∧ t.rxEn = false)) ∧
    (t.txCh = s.txCh ∨ i = .csIsr ∨ i = .fxTrigger ∨ i = .dmaTxStep ∨ i = .dmaTxIsr) ∧
    (t.txIdx = s.txIdx ∨ i = .csIsr ∨ i = .fxTrigger ∨ i = .dmaTxStep) ∧
    (t.rxCh = s.rxCh ∨ i = .csIsr ∨ i = .fxTrigger ∨ i = .dmaRxStep ∨ i = .dmaRxIsr) ∧
    (t.rxIdx = s.rxIdx ∨ i = .csIsr ∨ i = .fxTrigger ∨ i = .dmaRxStep) ∧
    (t.txFifo = s.txFifo ∨ i = .dmaTxStep ∨ ∃ p, i = .linkWord p) ∧
    (t.rxFifo = s.rxFifo ∨ (∃ p, i = .linkWord p) ∨ i = .dmaRxStep ∨ i = .dmaRxIsr) ∧
    (t.ctlLeft = s.ctlLeft ∨ i = .fxTrigger ∨ ∃ p, i = .linkWord p) ∧
    (t.ovrCnt = s.ovrCnt ∨ i = .csIsr ∨ i = .fxTrigger) ∧
    (t.misCnt = s.misCnt ∧ t.misMask = s.misMask ∨ i = .dmaRxIsr) ∧
    (t.txBytes = s.txBytes ∧ t.rxBytes = s.rxBytes ∨ i = .csIsr) ∧
    (∃ new, t.diag = s.diag ++ new ∧
      (new = [] ∨ i = .csIsr ∨ i = .fxTrigger ∨ i = .dmaRxIsr)) ∧
    (∃ new, t.wireOut = s.wireOut ++ new ∧ (new = [] ∨ ∃ p, i = .linkWord p)) ∧
    (t.live = s.live ∨ (i = .fxRefresh ∧ t.live = !s.live)) ∧
    (t.now = s.now ∨ i = .tick) ∧
    ((t.timers = s.timers ∧ t.tlist = s.tlist ∧ t.expq = s.expq) ∨ i = .tick ∨
      (∃ k p, i = .tmrStart k p) ∨ (∃ k, i = .tmrStop k) ∨ (∃ k, i = .tmrRestart k) ∨ i = .tmrPop) ∧
    (t.rdData = s.rdData ∨ ∃ a, i = .bufRead a) ∧
    (t.popResult = s.popResult ∨ i = .tmrPop) ∧
    ((t.faulted = s.faulted ∧ t.fcode = s.fcode ∧ t.fop = s.fop ∧ t.farg = s.farg) ∨
      (s.faulted = false ∧ t.faulted = true ∧
        (isEvent i = false ∨ i = .dmaRxIsr ∨ ∃ r, i = .regRead r))) ∧
    t.cfg = s.cfg ∧ t.inputs = s.inputs ∧ (t.readOut = s.readOut ∨ ∃ r, i = .regRead r)
end

