-- ==== Sys2Proof/Laws/Crc.lean ====
section
/-! SUPPORT. What the chunk operations do: stamping, checking, and their loops (R107, R109, R143, R144). -/

namespace Sys2Proof.Machine

/-- Stamping a chunk reads its payload and writes the payload's CRC to the header. -/
theorem stampChunk_ok {k : Nat} {s t : State} {c : Word} :
    stampChunk k s = .ok (c, t) ↔
      ∃ ws, readPayload (cmdRead s) s.cfg k = .ok ws ∧ c = crcWords ws ∧
        cmdWrite (chunkBase s.cfg k) (crcWords ws) s = .ok t := by
  unfold stampChunk
  cases hr : readPayload (cmdRead s) s.cfg k with
  | error x => simp [bind, Except.bind]
  | ok ws =>
    cases hw : cmdWrite (chunkBase s.cfg k) (crcWords ws) s with
    | error x => simp [bind, Except.bind, hw]
    | ok u =>
      simp only [bind, Except.bind, hw, Except.ok.injEq, Prod.mk.injEq]
      constructor
      · rintro ⟨rfl, rfl⟩
        exact ⟨ws, rfl, rfl, hw⟩
      · rintro ⟨vs, rfl, hc, ht⟩
        rw [hw] at ht
        cases ht
        exact ⟨hc.symm, rfl⟩

/-- Checking a chunk reads its payload, then its header. -/
theorem chunkOk_ok {s : State} {k : Nat} {b : Bool} :
    chunkOk s k = .ok b ↔
      ∃ ws stored, readPayload (memRead s) s.cfg k = .ok ws ∧
        memRead s (chunkBase s.cfg k) = .ok stored ∧ b = decide (crcWords ws = stored) := by
  unfold chunkOk
  cases hr : readPayload (memRead s) s.cfg k with
  | error x => simp [bind, Except.bind]
  | ok ws =>
    cases hm : memRead s (chunkBase s.cfg k) with
    | error x => simp [bind, Except.bind]
    | ok w => simp [bind, Except.bind, eq_comm]

theorem stampChunks_cons {k : Nat} {ks : List Nat} {s t : State} :
    stampChunks (k :: ks) s = .ok t ↔
      ∃ c u, stampChunk k s = .ok (c, u) ∧ stampChunks ks u = .ok t := by
  simp only [stampChunks]
  cases hs : stampChunk k s with
  | error x => simp [bind, Except.bind]
  | ok cu =>
    obtain ⟨c, u⟩ := cu
    simp only [bind, Except.bind, Except.ok.injEq, Prod.mk.injEq]
    constructor
    · intro h
      exact ⟨c, u, ⟨rfl, rfl⟩, h⟩
    · rintro ⟨c', u', ⟨rfl, rfl⟩, h⟩
      exact h

theorem verifySlots_cons {k : Nat} {ks : List Nat} {s t : State} :
    verifySlots (k :: ks) s = .ok t ↔
      ∃ b, chunkOk s (receivedChunk s.cfg k) = .ok b ∧ verifySlots ks (recordCheck k b s) = .ok t := by
  simp only [verifySlots]
  cases hs : chunkOk s (receivedChunk s.cfg k) with
  | error x => simp [bind, Except.bind]
  | ok b => simp [bind, Except.bind]

theorem verifyReceived_ok {s t : State} :
    verifyReceived s = .ok t ↔
      s.tableValid = true ∧ verifySlots (List.range s.cfg.workers) s = .ok t := by
  unfold verifyReceived checkTable require
  cases s.tableValid <;> simp [bind, Except.bind]

end Sys2Proof.Machine
end

