-- ==== Sys2Proof/Laws/Memory.lean ====
section
/-! SUPPORT. The laws of the shared buffer and of the timer slots: read after write, a write elsewhere is
not seen, every write keeps the canonical form, and equal reads mean equal canonical memories. -/

namespace Sys2Proof.Machine

theorem Memory.get_set_same (m : Memory) (a : Nat) (v : Word) : (m.set a v).get a = some v := by
  induction m with
  | nil => simp [Memory.set, Memory.get]
  | cons c m ih =>
    obtain ⟨b, x⟩ := c
    unfold Memory.set
    split
    · simp [Memory.get]
    · split
      · simp [Memory.get]
      · rename_i h
        simp [Memory.get, ih, Ne.symm h]

theorem Memory.get_set_other (m : Memory) {a c : Nat} (v : Word) (h : c ≠ a) :
    (m.set a v).get c = m.get c := by
  induction m with
  | nil => simp [Memory.set, Memory.get, Ne.symm h]
  | cons d m ih =>
    obtain ⟨b, x⟩ := d
    unfold Memory.set
    split
    · simp [Memory.get, Ne.symm h]
    · split
      · rename_i hab
        subst hab
        simp [Memory.get, Ne.symm h]
      · simp [Memory.get, ih]

/-- The head of a canonical memory lies below every other listed address. -/
theorem Memory.wf_cons {a : Nat} {x : Word} {m : Memory} :
    Memory.wf ((a, x) :: m) = true ↔ Memory.wf m = true ∧ ∀ b y, (b, y) ∈ m → a < b := by
  induction m generalizing a x with
  | nil => simp [Memory.wf]
  | cons c m ih =>
    obtain ⟨b, y⟩ := c
    simp only [Memory.wf, Bool.and_eq_true, decide_eq_true_eq]
    constructor
    · rintro ⟨hab, hw⟩
      refine ⟨hw, ?_⟩
      intro b' y' hm
      rcases List.mem_cons.mp hm with h | h
      · cases h
        exact hab
      · exact Nat.lt_trans hab ((ih.mp hw).2 _ _ h)
    · rintro ⟨hw, hall⟩
      exact ⟨hall _ _ (List.mem_cons_self ..), hw⟩

theorem Memory.mem_set {m : Memory} {a b : Nat} {v y : Word} (h : (b, y) ∈ m.set a v) :
    (b, y) = (a, v) ∨ (b, y) ∈ m := by
  induction m with
  | nil => simpa [Memory.set] using h
  | cons c m ih =>
    obtain ⟨d, x⟩ := c
    unfold Memory.set at h
    split at h
    · simpa using h
    · split at h
      · rcases List.mem_cons.mp h with h | h
        · exact .inl h
        · exact .inr (List.mem_cons_of_mem _ h)
      · rcases List.mem_cons.mp h with h | h
        · exact .inr (h ▸ List.mem_cons_self ..)
        · rcases ih h with h | h
          · exact .inl h
          · exact .inr (List.mem_cons_of_mem _ h)

/-- A write keeps the canonical form. -/
theorem Memory.set_wf {m : Memory} (a : Nat) (v : Word) (h : m.wf = true) : (m.set a v).wf = true := by
  induction m with
  | nil => rfl
  | cons c m ih =>
    obtain ⟨b, x⟩ := c
    obtain ⟨hw, hall⟩ := Memory.wf_cons.mp h
    unfold Memory.set
    split
    · rename_i hab
      refine Memory.wf_cons.mpr ⟨h, ?_⟩
      intro d y hm
      rcases List.mem_cons.mp hm with hm | hm
      · cases hm
        exact hab
      · exact Nat.lt_trans hab (hall _ _ hm)
    · split
      · rename_i hab
        subst hab
        exact Memory.wf_cons.mpr ⟨hw, hall⟩
      · rename_i hlt hne
        refine Memory.wf_cons.mpr ⟨ih hw, ?_⟩
        intro d y hm
        rcases Memory.mem_set hm with hm | hm
        · cases hm
          omega
        · exact hall _ _ hm

/-- An address below every listed one is unlisted. -/
theorem Memory.get_none_of_lt {m : Memory} {a : Nat} (h : ∀ b y, (b, y) ∈ m → a < b) :
    m.get a = none := by
  induction m with
  | nil => rfl
  | cons c m ih =>
    obtain ⟨b, x⟩ := c
    have hb := h b x (List.mem_cons_self ..)
    simp [Memory.get, Nat.ne_of_gt hb, ih fun d y hm => h d y (List.mem_cons_of_mem _ hm)]

/-- Canonical memories with equal reads are equal data. -/
theorem Memory.ext_get {m n : Memory} (hm : m.wf = true) (hn : n.wf = true)
    (h : ∀ a, m.get a = n.get a) : m = n := by
  induction m generalizing n with
  | nil =>
    cases n with
    | nil => rfl
    | cons c n =>
      have := h c.1
      simp [Memory.get] at this
  | cons c m ih =>
    obtain ⟨a, x⟩ := c
    obtain ⟨hmw, hma⟩ := Memory.wf_cons.mp hm
    cases n with
    | nil =>
      have := h a
      simp [Memory.get] at this
    | cons d n =>
      obtain ⟨b, y⟩ := d
      obtain ⟨hnw, hnb⟩ := Memory.wf_cons.mp hn
      have hab : a = b := by
        rcases Nat.lt_trichotomy a b with hlt | heq | hgt
        · have := h a
          rw [Memory.get_none_of_lt (m := (b, y) :: n)] at this
          · simp [Memory.get] at this
          · intro d z hd
            rcases List.mem_cons.mp hd with hd | hd
            · cases hd
              exact hlt
            · exact Nat.lt_trans hlt (hnb _ _ hd)
        · exact heq
        · have := h b
          rw [Memory.get_none_of_lt (m := (a, x) :: m)] at this
          · simp [Memory.get] at this
          · intro d z hd
            rcases List.mem_cons.mp hd with hd | hd
            · cases hd
              exact hgt
            · exact Nat.lt_trans hgt (hma _ _ hd)
      subst hab
      have hxy : x = y := by simpa [Memory.get] using h a
      subst hxy
      congr 1
      refine ih hmw hnw fun c => ?_
      rcases Nat.decEq a c with hne | heq
      · simpa [Memory.get, hne] using h c
      · subst heq
        rw [Memory.get_none_of_lt hma, Memory.get_none_of_lt hnb]

@[simp] theorem bufGet_bufSet_same (a : Nat) (v : Word) (s : State) :
    bufGet (bufSet a v s) a = some v := Memory.get_set_same _ _ _

theorem bufGet_bufSet_other {a c : Nat} (v : Word) (s : State) (h : c ≠ a) :
    bufGet (bufSet a v s) c = bufGet s c := Memory.get_set_other _ _ h

theorem slotAt_slotSet_same {t : Nat} (x : Slot) {s : State} (h : t < s.timers.length) :
    slotAt (slotSet t x s) t = x := by
  simp [slotAt, slotSet, h]

theorem slotAt_slotSet_other {t u : Nat} (x : Slot) (s : State) (h : u ≠ t) :
    slotAt (slotSet t x s) u = slotAt s u := by
  simp [slotAt, slotSet, List.getD_eq_getElem?_getD, List.getElem?_set_ne (Ne.symm h)]

/-- Beyond the last slot every slot reads as unused. -/
theorem slotAt_of_ge {t : Nat} {s : State} (h : s.timers.length ≤ t) : slotAt s t = Slot.unused := by
  simp [slotAt, List.getD_eq_getElem?_getD, List.getElem?_eq_none h]

end Sys2Proof.Machine
end

