-- ==== Sys2Proof/Laws/Ops.lean ====
section
/-! SUPPORT. What each shared operation can do, said once: configuration, fault entry and its gates, the
reads and writes of a command, and the loops over words and chunks. -/

namespace Sys2Proof.Machine

/-! ### Configuration -/

/-- R3, clause by clause. -/
theorem configValid_iff (c : Config) :
    configValid c = true ↔
      1 ≤ c.workers ∧ c.workers ≤ 32 ∧ 1 ≤ c.chunk ∧ bufWords c ≤ 65536 ∧
      (c.role = .worker → c.workerId < c.workers) ∧
      1 ≤ c.xferLen ∧ c.txBase + c.xferLen ≤ bufWords c ∧ c.rxBase + c.xferLen ≤ bufWords c ∧
      1 ≤ c.txFifoDepth ∧ 1 ≤ c.rxFifoDepth ∧ 1 ≤ c.gran ∧ c.gran ≤ 2 ^ 32 - 1 ∧
      1 ≤ c.timerCount ∧ c.timerCount ≤ 65535 :=
  decide_eq_true_iff

theorem xferCount_toNat {c : Config} (h : configValid c = true) :
    (xferCount c).toNat = c.xferLen := by
  have hc := (configValid_iff c).mp h
  simp only [xferCount, BitVec.toNat_ofNat]
  omega

theorem granCount_toNat {c : Config} (h : configValid c = true) : (granCount c).toNat = c.gran := by
  have hc := (configValid_iff c).mp h
  simp only [granCount, BitVec.toNat_ofNat]
  omega

/-- Every word of a chunk is a buffer word (R56). -/
theorem chunk_inside {c : Config} {k j : Nat} (hk : k < 2 * c.workers) (hj : j < c.chunk) :
    k * c.chunk + j < bufWords c := by
  have h : (k + 1) * c.chunk ≤ 2 * c.workers * c.chunk := Nat.mul_le_mul_right _ hk
  rw [Nat.add_mul] at h
  unfold bufWords
  omega

/-! ### Fault entry and gates -/

@[simp] theorem settle_ok (op : Byte) (s t : State) : settle op s (.ok t) = .next t := rfl

@[simp] theorem settle_error (op : Byte) (s : State) (x : Trap) :
    settle op s (.error x) = .next (raiseFault op x s) := rfl

/-- A settled step gives its result's state or the latched fault, and nothing else. -/
theorem settle_next {op : Byte} {s t : State} {r : Except Trap State} (h : settle op s r = .next t) :
    r = .ok t ∨ ∃ x, r = .error x ∧ t = raiseFault op x s := by
  cases r with
  | ok u =>
    cases h
    exact .inl rfl
  | error x =>
    cases h
    exact .inr ⟨x, rfl, rfl⟩

theorem command_faulted {op : Byte} {body : State → Except Trap State} {s : State}
    (h : s.faulted = true) : command op body s = .next s := by
  simp [command, h]

theorem command_running {op : Byte} {body : State → Except Trap State} {s : State}
    (h : s.faulted = false) : command op body s = settle op s (body s) := by
  simp [command, h]

/-- A command always gives a next state: unchanged while faulted, else its effect or its fault. -/
theorem command_next {op : Byte} {body : State → Except Trap State} {s t : State}
    (h : command op body s = .next t) :
    (s.faulted = true ∧ t = s) ∨ (s.faulted = false ∧ body s = .ok t) ∨
      (s.faulted = false ∧ ∃ x, body s = .error x ∧ t = raiseFault op x s) := by
  cases hf : s.faulted with
  | true =>
    rw [command_faulted hf] at h
    cases h
    exact .inl ⟨rfl, rfl⟩
  | false =>
    rw [command_running hf] at h
    rcases settle_next h with h | h
    · exact .inr (.inl ⟨rfl, h⟩)
    · exact .inr (.inr ⟨rfl, h⟩)

theorem command_total (op : Byte) (body : State → Except Trap State) (s : State) :
    ∃ t, command op body s = .next t := by
  cases hf : s.faulted with
  | true => exact ⟨s, command_faulted hf⟩
  | false =>
    rw [command_running hf]
    cases body s with
    | ok u => exact ⟨u, rfl⟩
    | error x => exact ⟨_, rfl⟩

theorem event_enabled {en : State → Bool} {body : State → Out} {s : State}
    (hf : s.faulted = false) (he : en s = true) : event en body s = body s := by
  simp [event, hf, he]

theorem event_disabled {en : State → Bool} {body : State → Out} {s : State} (he : en s = false) :
    event en body s = .refused .notEnabled := by
  simp [event, he]

theorem event_faulted {en : State → Bool} {body : State → Out} {s : State} (hf : s.faulted = true) :
    event en body s = .refused .notEnabled := by
  simp [event, hf]

/-- An event gives a next state only when the block is not faulted and the step is enabled. -/
theorem event_next {en : State → Bool} {body : State → Out} {s t : State}
    (h : event en body s = .next t) : s.faulted = false ∧ en s = true ∧ body s = .next t := by
  unfold event at h
  split at h
  · rename_i hc
    simp only [Bool.and_eq_true, Bool.not_eq_true'] at hc
    exact ⟨hc.1, hc.2, h⟩
  · cases h

/-! ### Guards, reads and writes -/

@[simp] theorem require_ok {b : Bool} {x : Trap} : require b x = .ok () ↔ b = true := by
  cases b <;> simp [require]

@[simp] theorem require_error {b : Bool} {x y : Trap} :
    require b x = .error y ↔ b = false ∧ x = y := by
  cases b <;> simp [require]

theorem memRead_ok {s : State} {a : Nat} {w : Word} :
    memRead s a = .ok w ↔ a < bufWords s.cfg ∧ bufGet s a = some w := by
  unfold memRead
  split
  · rename_i h
    split <;> rename_i hb <;> simp [h, hb]
  · rename_i h
    simp [h]

theorem cmdRead_ok {s : State} {a : Nat} {w : Word} :
    cmdRead s a = .ok w ↔ readRace s a = false ∧ a < bufWords s.cfg ∧ bufGet s a = some w := by
  unfold cmdRead
  split <;> rename_i h <;> simp [h, memRead_ok]

/-- A command's read of a buffer word that fails reports the race before the unwritten word (R226). -/
theorem cmdRead_error {s : State} {a : Nat} {x : Trap} (ha : a < bufWords s.cfg) :
    cmdRead s a = .error x ↔
      (readRace s a = true ∧ x = ⟨.bufferRace, a⟩) ∨
      (readRace s a = false ∧ bufGet s a = none ∧ x = ⟨.unwrittenRead, a⟩) := by
  unfold cmdRead memRead
  cases hr : readRace s a with
  | true => simp [eq_comm]
  | false => cases hb : bufGet s a <;> simp [ha, eq_comm]

theorem memWrite_ok {a : Nat} {v : Word} {s t : State} :
    memWrite a v s = .ok t ↔ a < bufWords s.cfg ∧ t = bufSet a v s := by
  unfold memWrite
  split <;> rename_i h <;> simp [h, eq_comm]

theorem cmdWrite_ok {a : Nat} {v : Word} {s t : State} :
    cmdWrite a v s = .ok t ↔
      writeRace s a = false ∧ a < bufWords s.cfg ∧ t = bufSet a v s := by
  unfold cmdWrite
  split <;> rename_i h <;> simp [h, memWrite_ok]

/-- Reading a span succeeds exactly when every word of it is read. -/
theorem readSpan_ok {rd : Nat → Except Trap Word} {a n : Nat} {ws : List Word} :
    readSpan rd a n = .ok ws ↔
      ws.length = n ∧ ∀ i, (h : i < ws.length) → rd (a + i) = .ok ws[i] := by
  induction n generalizing a ws with
  | zero =>
    simp only [readSpan, Except.ok.injEq, List.length_eq_zero_iff]
    constructor
    · rintro rfl
      simp
    · rintro ⟨rfl, -⟩
      rfl
  | succ n ih =>
    simp only [readSpan]
    cases hr : rd a with
    | error x =>
      simp only [bind, Except.bind]
      constructor
      · intro h
        cases h
      · rintro ⟨hl, hw⟩
        have := hw 0 (by omega)
        simp [hr] at this
    | ok w =>
      simp only [bind, Except.bind]
      cases hs : readSpan rd (a + 1) n with
      | error x =>
        constructor
        · intro h
          cases h
        · rintro ⟨hl, hw⟩
          cases ws with
          | nil => simp at hl
          | cons v vs =>
            have : readSpan rd (a + 1) n = .ok vs := ih.mpr ⟨by simpa using hl, fun i hi => by
              have := hw (i + 1) (by simpa using hi)
              simpa [Nat.add_assoc, Nat.add_comm 1 i] using this⟩
            rw [hs] at this
            cases this
      | ok vs =>
        obtain ⟨hl, hw⟩ := ih.mp hs
        constructor
        · intro h
          cases h
          refine ⟨by simp [hl], fun i hi => ?_⟩
          cases i with
          | zero => simpa using hr
          | succ i =>
            have := hw i (by simpa using hi)
            simpa [Nat.add_assoc, Nat.add_comm 1 i] using this
        · rintro ⟨hl', hw'⟩
          cases ws with
          | nil => simp at hl'
          | cons v us =>
            have h0 := hw' 0 (by simp)
            simp only [Nat.add_zero, hr, List.getElem_cons_zero, Except.ok.injEq] at h0
            have : readSpan rd (a + 1) n = .ok us := ih.mpr ⟨by simpa using hl', fun i hi => by
              have := hw' (i + 1) (by simpa using hi)
              simpa [Nat.add_assoc, Nat.add_comm 1 i] using this⟩
            rw [hs] at this
            cases this
            rw [h0]

/-- Reading a span fails exactly at its first word that is not read, with that word's fault. -/
theorem readSpan_error {rd : Nat → Except Trap Word} {a n : Nat} {x : Trap} :
    readSpan rd a n = .error x ↔
      ∃ i, i < n ∧ (∀ j, j < i → ∃ w, rd (a + j) = .ok w) ∧ rd (a + i) = .error x := by
  induction n generalizing a with
  | zero => simp [readSpan]
  | succ n ih =>
    simp only [readSpan]
    cases hr : rd a with
    | error y =>
      simp only [bind, Except.bind]
      constructor
      · intro h
        cases h
        exact ⟨0, by omega, by simp, hr⟩
      · rintro ⟨i, hi, hj, hx⟩
        cases i with
        | zero =>
          rw [Nat.add_zero, hr] at hx
          cases hx
          rfl
        | succ i =>
          obtain ⟨w, hw⟩ := hj 0 (by omega)
          rw [Nat.add_zero, hr] at hw
          cases hw
    | ok w =>
      simp only [bind, Except.bind]
      have hshift : ∀ i, a + 1 + i = a + (i + 1) := fun i => by omega
      constructor
      · intro h
        have h' : readSpan rd (a + 1) n = .error x := by
          cases hs : readSpan rd (a + 1) n with
          | error y =>
            rw [hs] at h
            cases h
            rfl
          | ok vs =>
            rw [hs] at h
            cases h
        obtain ⟨i, hi, hj, hx⟩ := ih.mp h'
        refine ⟨i + 1, by omega, fun j hj' => ?_, hshift i ▸ hx⟩
        cases j with
        | zero => exact ⟨w, hr⟩
        | succ j => exact hshift j ▸ hj j (by omega)
      · rintro ⟨i, hi, hj, hx⟩
        cases i with
        | zero =>
          rw [Nat.add_zero, hr] at hx
          cases hx
        | succ i =>
          have h' : readSpan rd (a + 1) n = .error x :=
            ih.mpr ⟨i, by omega, fun j hj' => hshift j ▸ hj (j + 1) (by omega), hshift i ▸ hx⟩
          rw [h']

end Sys2Proof.Machine
end

