-- ==== Sys2Proof/Laws/Access.lean ====
section
/-! SUPPORT. The buffer accesses of a step in the terms claims use: a span or a payload whose words are all
readable is read whole, and one that is not fails at its first unreadable word. -/

namespace Sys2Proof.Machine

/-- `latched` is fault entry with the code written out (R221, R224). -/
theorem latched_eq (k : FaultKind) (op : Byte) (x : Nat) (s : State) :
    latched (faultCode k) op x s = raiseFault op ⟨k, x⟩ s := rfl

theorem mem_spanAddrs {a n x : Nat} : x ∈ spanAddrs a n ↔ a ≤ x ∧ x < a + n := by
  simp only [spanAddrs, List.mem_map, List.mem_range]
  constructor
  · rintro ⟨i, hi, rfl⟩
    omega
  · intro h
    exact ⟨x - a, by omega, by omega⟩

theorem length_spanAddrs (a n : Nat) : (spanAddrs a n).length = n := by simp [spanAddrs]

theorem getElem_spanAddrs {a n i : Nat} (h : i < (spanAddrs a n).length) :
    (spanAddrs a n)[i] = a + i := by simp [spanAddrs]

/-- The payload addresses of a chunk are the addresses `readPayload` reads. -/
theorem readPayload_eq (rd : Nat → Except Trap Word) (c : Config) (k : Nat) :
    readPayload rd c k = readSpan rd (k * c.chunk + 1) (c.chunk - 1) := rfl

/-- A payload address lies in its chunk, past the header. -/
theorem mem_payloadAddrs {c : Config} {k x : Nat} :
    x ∈ payloadAddrs c k ↔ k * c.chunk + 1 ≤ x ∧ x < k * c.chunk + 1 + (c.chunk - 1) :=
  mem_spanAddrs

/-- No header is a payload address of any chunk. -/
theorem headerAddr_not_payload (c : Config) (j k : Nat) : headerAddr c j ∉ payloadAddrs c k := by
  intro h
  obtain ⟨h1, h2⟩ := mem_payloadAddrs.mp h
  unfold headerAddr at h1 h2
  have hpos : 1 ≤ c.chunk := by omega
  rcases Nat.lt_or_ge k j with hj | hj
  · have : (k + 1) * c.chunk ≤ j * c.chunk := Nat.mul_le_mul_right _ hj
    rw [Nat.add_mul] at this
    omega
  · have : j * c.chunk ≤ k * c.chunk := Nat.mul_le_mul_right _ hj
    omega

theorem wordAt_of_get {s : State} {a : Nat} (h : (bufGet s a).isSome = true) :
    bufGet s a = some (wordAt s a) := by
  obtain ⟨w, hw⟩ := Option.isSome_iff_exists.mp h
  simp [wordAt, hw]

/-- Any reader that answers the words of a span reads the whole span. -/
theorem readSpan_all {rd : Nat → Except Trap Word} {f : Nat → Word} {a n : Nat}
    (h : ∀ x ∈ spanAddrs a n, rd x = .ok (f x)) :
    readSpan rd a n = .ok ((spanAddrs a n).map f) := by
  refine readSpan_ok.mpr ⟨by simp [spanAddrs], fun i hi => ?_⟩
  have hi' : i < n := by simpa [spanAddrs] using hi
  rw [h (a + i) (mem_spanAddrs.mpr ⟨by omega, by omega⟩)]
  simp [spanAddrs]

/-- Any reader that answers the words before x and faults at x makes the span fault at x. -/
theorem readSpan_first {rd : Nat → Except Trap Word} {P : Nat → Prop} {a n x : Nat} {e : Trap}
    (hok : ∀ y ∈ spanAddrs a n, P y → ∃ w, rd y = .ok w) (hx : rd x = .error e)
    (h : FirstFailing P (spanAddrs a n) x) : readSpan rd a n = .error e := by
  obtain ⟨before, after, heq, hb, -⟩ := h
  have hlen : before.length < n := by
    have := congrArg List.length heq
    simp [spanAddrs] at this
    omega
  have hat : ∀ i (hi : i < before.length + 1), (before ++ x :: after)[i]'(by simp; omega) = a + i := by
    intro i hi
    have h1 : (spanAddrs a n)[i]'(by rw [length_spanAddrs]; omega) = a + i := getElem_spanAddrs _
    simpa only [heq] using h1
  refine readSpan_error.mpr ⟨before.length, hlen, fun j hj => ?_, ?_⟩
  · have hj' := hat j (by omega)
    rw [List.getElem_append_left hj] at hj'
    refine hok _ (mem_spanAddrs.mpr ⟨by omega, by omega⟩) ?_
    exact hj' ▸ hb _ (List.getElem_mem hj)
  · have hl := hat before.length (by omega)
    simp at hl
    rw [← hl]
    exact hx

theorem cmdRead_of_readable {s : State} {x : Nat} (hx : x < bufWords s.cfg) (h : Readable s x) :
    cmdRead s x = .ok (wordAt s x) := cmdRead_ok.mpr ⟨h.1, hx, wordAt_of_get h.2⟩

theorem cmdRead_of_not_readable {s : State} {x : Nat} (hx : x < bufWords s.cfg)
    (h : ¬ Readable s x) :
    cmdRead s x = .error ⟨if readRace s x then .bufferRace else .unwrittenRead, x⟩ := by
  refine (cmdRead_error hx).mpr ?_
  cases hr : readRace s x with
  | true => exact .inl ⟨rfl, rfl⟩
  | false =>
    refine .inr ⟨rfl, ?_, rfl⟩
    by_contra hn
    exact h ⟨hr, Option.isSome_iff_ne_none.mpr hn⟩

/-- `readFault` is the code of the fault a command's read raises. -/
theorem readFault_eq (s : State) (x : Nat) :
    readFault s x = faultCode (if readRace s x then .bufferRace else .unwrittenRead) := by
  unfold readFault
  split <;> rfl

/-- A command reads a readable span whole. -/
theorem readSpan_readable {s : State} {a n : Nat} (ha : a + n ≤ bufWords s.cfg)
    (h : ∀ x ∈ spanAddrs a n, Readable s x) :
    readSpan (cmdRead s) a n = .ok ((spanAddrs a n).map (wordAt s)) :=
  readSpan_all fun x hx =>
    cmdRead_of_readable (by have := mem_spanAddrs.mp hx; omega) (h x hx)

/-- A command's read of a span faults at its first unreadable word. -/
theorem readSpan_unreadable {s : State} {a n x : Nat} (ha : a + n ≤ bufWords s.cfg)
    (h : FirstFailing (Readable s) (spanAddrs a n) x) :
    readSpan (cmdRead s) a n =
      .error ⟨if readRace s x then .bufferRace else .unwrittenRead, x⟩ := by
  have hmem : ∀ y ∈ spanAddrs a n, y < bufWords s.cfg := fun y hy => by
    have := mem_spanAddrs.mp hy
    omega
  have hx : x ∈ spanAddrs a n := by
    obtain ⟨b, c, heq, -⟩ := h
    simp [heq]
  refine readSpan_first (P := Readable s) (fun y hy hP => ⟨_, cmdRead_of_readable (hmem y hy) hP⟩) ?_ h
  obtain ⟨b, c, -, -, hn⟩ := h
  exact cmdRead_of_not_readable (hmem x hx) hn

theorem memRead_of_written {s : State} {x : Nat} (hx : x < bufWords s.cfg) (h : Written s x) :
    memRead s x = .ok (wordAt s x) := memRead_ok.mpr ⟨hx, wordAt_of_get h⟩

theorem memRead_of_not_written {s : State} {x : Nat} (hx : x < bufWords s.cfg)
    (h : ¬ Written s x) : memRead s x = .error ⟨.unwrittenRead, x⟩ := by
  have hn : bufGet s x = none := by
    by_contra hc
    exact h (Option.isSome_iff_ne_none.mpr hc)
  simp [memRead, hx, hn]

/-- A chunk's payload lies in the buffer. -/
theorem payload_inside {c : Config} {k : Nat} (hk : k < 2 * c.workers) (hC : 1 ≤ c.chunk) :
    k * c.chunk + 1 + (c.chunk - 1) ≤ bufWords c := by
  have := chunk_inside (c := c) (k := k) (j := c.chunk - 1) hk (by omega)
  omega

/-- A chunk's header lies in the buffer. -/
theorem header_inside {c : Config} {k : Nat} (hk : k < 2 * c.workers) (hC : 1 ≤ c.chunk) :
    headerAddr c k < bufWords c := chunk_inside (j := 0) hk hC

/-- A command reads a readable payload whole. -/
theorem readPayload_readable {s : State} {k : Nat} (hk : k < 2 * s.cfg.workers)
    (hC : 1 ≤ s.cfg.chunk) (h : ∀ x ∈ payloadAddrs s.cfg k, Readable s x) :
    readPayload (cmdRead s) s.cfg k = .ok (payloadOf s k) :=
  readSpan_readable (payload_inside hk hC) h

/-- Stamping a chunk with a readable payload and a header that may be written. -/
theorem stampChunk_readable {s : State} {k : Nat} (hk : k < 2 * s.cfg.workers)
    (hC : 1 ≤ s.cfg.chunk) (h : ∀ x ∈ payloadAddrs s.cfg k, Readable s x)
    (hw : writeRace s (headerAddr s.cfg k) = false) :
    stampChunk k s = .ok (crcWords (payloadOf s k),
      bufSet (headerAddr s.cfg k) (crcWords (payloadOf s k)) s) :=
  stampChunk_ok.mpr ⟨_, readPayload_readable hk hC h, rfl,
    cmdWrite_ok.mpr ⟨hw, header_inside hk hC, rfl⟩⟩

/-- The receive handler's verification of a written chunk. -/
theorem chunkOk_written {s : State} {k : Nat} (hk : k < 2 * s.cfg.workers) (hC : 1 ≤ s.cfg.chunk)
    (h : ∀ x ∈ payloadAddrs s.cfg k ++ [headerAddr s.cfg k], Written s x) :
    chunkOk s k = .ok (chunkMatches s k) := by
  refine chunkOk_ok.mpr ⟨payloadOf s k, wordAt s (headerAddr s.cfg k), ?_, ?_, rfl⟩
  · refine readSpan_all fun x hx => memRead_of_written ?_ (h x (List.mem_append_left _ hx))
    have := mem_payloadAddrs.mp hx
    have := payload_inside (c := s.cfg) hk hC
    omega
  · exact memRead_of_written (header_inside hk hC) (h _ (List.mem_append_right _ (List.mem_singleton.mpr rfl)))

end Sys2Proof.Machine
end

