-- ==== Sys2Proof/Laws/Assembler.lean ====
section
/-! SUPPORT. What the parts of the assembler do (30_encoding.md R78). -/

namespace Sys2Proof.Machine

/-- Digits are read from left to right. -/
theorem digitsValue_append (base : Nat) (cs ds : List Char) (acc : Nat) :
    digitsValue base acc (cs ++ ds) = (digitsValue base acc cs).bind (digitsValue base · ds) := by
  induction cs generalizing acc with
  | nil => rfl
  | cons c cs ih =>
    simp only [List.cons_append, digitsValue]
    split
    · exact ih _
    · rfl

/-- A digit below the base is read as its value. -/
theorem digitValue_digitChar {base d : Nat} (hb : base ≤ 16) (hd : d < base) :
    digitValue base d.digitChar = some d := by
  have : d < 16 := Nat.lt_of_lt_of_le hd hb
  interval_cases d <;> simp_all [digitValue, Nat.digitChar]

/-- A form without operands takes the empty list only. -/
theorem form0_cons (i : Instr) (x : Nat) (xs : List Nat) : form0 i (x :: xs) = .error .operandCount := rfl

@[simp] theorem form0_nil (i : Instr) : form0 i [] = .ok i := rfl

/-- A form with one operand hands it on unchanged or refuses it. -/
theorem form1_fits {bound x : Nat} (f : Nat → Instr) (h : x < bound) : form1 bound f [x] = .ok (f x) :=
  if_pos h

theorem form1_too_wide {bound x : Nat} (f : Nat → Instr) (h : bound ≤ x) :
    form1 bound f [x] = .error .operandTooWide := if_neg (Nat.not_lt.mpr h)

/-- A form with two operands hands both on unchanged or refuses them. -/
theorem form2_fits {b₁ b₂ x y : Nat} (f : Nat → Nat → Instr) (hx : x < b₁) (hy : y < b₂) :
    form2 b₁ b₂ f [x, y] = .ok (f x y) := if_pos ⟨hx, hy⟩

theorem form2_too_wide {b₁ b₂ x y : Nat} (f : Nat → Nat → Instr) (h : b₁ ≤ x ∨ b₂ ≤ y) :
    form2 b₁ b₂ f [x, y] = .error .operandTooWide := if_neg (by omega)

end Sys2Proof.Machine
end

