-- ==== Sys2Proof/Laws/Decode.lean ====
section
/-! SUPPORT. The fields of a packed word, and a word from its fields (R70). -/

namespace Sys2Proof

/-- The bits of a packed word, lowest field first. -/
theorem pack_getLsbD (op : Byte) (a : BitVec 16) (b : U32) (i : Nat) :
    (pack op a b).getLsbD i =
      if i < 32 then b.getLsbD i
      else if i < 40 then false
      else if i < 56 then a.getLsbD (i - 40)
      else op.getLsbD (i - 56) := by
  change BitVec.getLsbD (w := 8 + 16 + 8 + 32) (op ++ a ++ (0 : Byte) ++ b) i = _
  simp only [BitVec.getLsbD_append]
  rcases Nat.lt_or_ge i 32 with h | h
  · simp [h]
  rcases Nat.lt_or_ge i 40 with h1 | h1
  · simp [Nat.not_lt.mpr h, h1, show i - 32 < 8 by omega]
  rcases Nat.lt_or_ge i 56 with h2 | h2
  · simp [Nat.not_lt.mpr h, Nat.not_lt.mpr h1, h2, show ¬ i - 32 < 8 by omega,
      show i - 32 - 8 = i - 40 by omega, show i - 40 < 16 by omega]
  · simp [Nat.not_lt.mpr h, Nat.not_lt.mpr h1, Nat.not_lt.mpr h2, show ¬ i - 32 < 8 by omega,
      show ¬ i - 32 - 8 < 16 by omega, show i - 32 - 8 - 16 = i - 56 by omega]

@[simp] theorem opField_pack (op : Byte) (a : BitVec 16) (b : U32) : opField (pack op a b) = op := by
  apply BitVec.eq_of_getLsbD_eq
  intro i hi
  simp [opField, pack_getLsbD, hi, show ¬ 56 + i < 32 by omega, show ¬ 56 + i < 40 by omega]

@[simp] theorem aField_pack (op : Byte) (a : BitVec 16) (b : U32) : aField (pack op a b) = a.toNat := by
  unfold aField
  congr 1
  apply BitVec.eq_of_getLsbD_eq
  intro i hi
  simp [pack_getLsbD, hi, show ¬ 40 + i < 32 by omega, show 40 + i < 56 by omega]

@[simp] theorem rsvField_pack (op : Byte) (a : BitVec 16) (b : U32) : rsvField (pack op a b) = 0 := by
  apply BitVec.eq_of_getLsbD_eq
  intro i hi
  simp [rsvField, pack_getLsbD, show 32 + i < 40 by omega]

@[simp] theorem bField_pack (op : Byte) (a : BitVec 16) (b : U32) : bField (pack op a b) = b := by
  apply BitVec.eq_of_getLsbD_eq
  intro i hi
  simp [bField, pack_getLsbD, hi]

/-- B[15:0] of a packed word. -/
@[simp] theorem bLow_pack (op : Byte) (a : BitVec 16) (b : U32) :
    bLow (pack op a b) = b.extractLsb' 0 16 := by
  apply BitVec.eq_of_getLsbD_eq
  intro i hi
  simp [bLow, pack_getLsbD, hi, show i < 32 by omega]

/-- B[31:16] of a packed word. -/
@[simp] theorem bHigh_pack (op : Byte) (a : BitVec 16) (b : U32) :
    bHigh (pack op a b) = b.extractLsb' 16 16 := by
  apply BitVec.eq_of_getLsbD_eq
  intro i hi
  simp [bHigh, pack_getLsbD, hi, show 16 + i < 32 by omega]

/-- A word whose RSV field is zero is the packing of its other fields. -/
theorem pack_fields (w : CmdWord) (h : rsvField w = 0) :
    pack (opField w) (BitVec.ofNat 16 (aField w)) (bField w) = w := by
  apply BitVec.eq_of_getLsbD_eq
  intro i hi
  have hz : ∀ j, j < 8 → w.getLsbD (32 + j) = false := by
    intro j hj
    have := congrArg (fun v => BitVec.getLsbD v j) h
    simpa [rsvField, hj] using this
  rw [pack_getLsbD]
  by_cases h1 : i < 32
  · simp [h1, bField]
  by_cases h2 : i < 40
  · have := hz (i - 32) (by omega)
    rw [show 32 + (i - 32) = i by omega] at this
    simp [h1, h2, this]
  by_cases h3 : i < 56
  · have ha : BitVec.ofNat 16 (aField w) = w.extractLsb' 40 16 :=
      (BitVec.ofNat_toNat 16 (w.extractLsb' 40 16)).trans (BitVec.setWidth_eq _)
    rw [ha]
    simp [h1, h2, h3, show i - 40 < 16 by omega, show 40 + (i - 40) = i by omega]
  · simp [h1, h2, h3, opField, show i - 56 < 8 by omega, show 56 + (i - 56) = i by omega]

end Sys2Proof
end

