-- ==== Sys2Proof/Laws/Flags.lean ====
section
/-! SUPPORT. The bits of STATUS and of the FAULT register (R46, R48). -/

namespace Sys2Proof.Machine

/-- STATUS, bit by bit (R48). -/
theorem status_getLsbD (s : State) (i : Nat) :
    (status s).getLsbD i =
      if i = 0 then s.tableValid
      else if i = 1 then s.pendTx
      else if i = 2 then s.pendRx
      else if i = 3 then s.rxEn
      else if i = 4 then statusLastLevel s
      else if i = 5 then s.live
      else if i = 6 then s.crcMatch.getD false
      else if i = 7 then s.faulted
      else if i = 8 then (chanCode s.txCh).getLsbD 0
      else if i = 9 then (chanCode s.txCh).getLsbD 1
      else if i = 10 then (chanCode s.rxCh).getLsbD 0
      else if i = 11 then (chanCode s.rxCh).getLsbD 1
      else if i = 12 then expqNonempty s
      else if i = 13 then statusCsPin s
      else if i = 14 then window s
      else false := by
  change BitVec.getLsbD (w := 17 + 1 + 1 + 1 + 2 + 2 + 1 + 1 + 1 + 1 + 1 + 1 + 1 + 1)
    ((0 : BitVec 17) ++ BitVec.ofBool (window s) ++ BitVec.ofBool (statusCsPin s) ++
      BitVec.ofBool (expqNonempty s) ++ chanCode s.rxCh ++ chanCode s.txCh ++
      BitVec.ofBool s.faulted ++ BitVec.ofBool (s.crcMatch.getD false) ++ BitVec.ofBool s.live ++
      BitVec.ofBool (statusLastLevel s) ++ BitVec.ofBool s.rxEn ++ BitVec.ofBool s.pendRx ++
      BitVec.ofBool s.pendTx ++ BitVec.ofBool s.tableValid) i = _
  simp only [BitVec.getLsbD_append]
  rcases Nat.lt_or_ge i 15 with h | h
  · interval_cases i <;> simp
  · obtain ⟨j, rfl⟩ := Nat.exists_eq_add_of_le' h
    simp

end Sys2Proof.Machine
end

