-- ==== Sys2Proof/Laws/PerInstr.lean ====
section
/-! SUPPORT. A statement about every instruction as syntax, and its lemma for each constructor: the word of
an instruction carries its OP in bits 63:56 and zeros in RSV (R70, R74), and a well-formed instruction's A
operand is read back unchanged (R71). -/

namespace Sys2Proof.Laws.EncodedFields

/-- The fields the encoder writes are the fields the decoder reads. -/
def Statement (i : Instr) : Prop :=
  opField (encode i) = opcode i ∧ rsvField (encode i) = 0 ∧ bField (encode i) = operandB i ∧
    (i.wf = true → aField (encode i) = operandA i)

/-- The statement from the width of field A alone. -/
theorem statement_of_fits (i : Instr) (h : i.wf = true → operandA i < 2 ^ 16) : Statement i := by
  refine ⟨opField_pack _ _ _, rsvField_pack _ _ _, bField_pack _ _ _, fun hw => ?_⟩
  rw [encode, aField_pack, BitVec.toNat_ofNat, Nat.mod_eq_of_lt (h hw)]

theorem nop : Statement .nop := statement_of_fits _ (by simp [operandA])
theorem crcInit : Statement .crcInit := statement_of_fits _ (by simp [operandA])
theorem crcCompute (a n : Nat) : Statement (.crcCompute a n) :=
  statement_of_fits _ (by simp [operandA, Instr.wf, fitsA]; omega)
theorem crcStamp (k : Nat) : Statement (.crcStamp k) :=
  statement_of_fits _ (by simp [operandA, Instr.wf, fitsA])
theorem crcCheck (k : Nat) : Statement (.crcCheck k) :=
  statement_of_fits _ (by simp [operandA, Instr.wf, fitsA])
theorem fxRefresh : Statement .fxRefresh := statement_of_fits _ (by simp [operandA])
theorem fxTrigger : Statement .fxTrigger := statement_of_fits _ (by simp [operandA])
theorem tmrStart (t : Nat) (p : U32) : Statement (.tmrStart t p) :=
  statement_of_fits _ (by simp [operandA, Instr.wf, fitsA])
theorem tmrStop (t : Nat) : Statement (.tmrStop t) :=
  statement_of_fits _ (by simp [operandA, Instr.wf, fitsA])
theorem tmrRestart (t : Nat) : Statement (.tmrRestart t) :=
  statement_of_fits _ (by simp [operandA, Instr.wf, fitsA])
theorem tmrPop : Statement .tmrPop := statement_of_fits _ (by simp [operandA])
theorem bufWrite (a : Nat) (v : Word) : Statement (.bufWrite a v) :=
  statement_of_fits _ (by simp [operandA, Instr.wf, fitsA])
theorem bufRead (a : Nat) : Statement (.bufRead a) :=
  statement_of_fits _ (by simp [operandA, Instr.wf, fitsA])
theorem tick : Statement .tick := statement_of_fits _ (by simp [operandA])
theorem csPin (level : Bool) : Statement (.csPin level) := statement_of_fits _ (by simp [operandA])
theorem csGlitch : Statement .csGlitch := statement_of_fits _ (by simp [operandA])
theorem csIsr : Statement .csIsr := statement_of_fits _ (by simp [operandA])
theorem linkWord (p : Word) : Statement (.linkWord p) := statement_of_fits _ (by simp [operandA])
theorem dmaTxStep : Statement .dmaTxStep := statement_of_fits _ (by simp [operandA])
theorem dmaRxStep : Statement .dmaRxStep := statement_of_fits _ (by simp [operandA])
theorem dmaTxIsr : Statement .dmaTxIsr := statement_of_fits _ (by simp [operandA])
theorem dmaRxIsr : Statement .dmaRxIsr := statement_of_fits _ (by simp [operandA])
theorem regRead (r : Nat) : Statement (.regRead r) := statement_of_fits _ (by simp [operandA])

end Sys2Proof.Laws.EncodedFields
end

