-- ==== Sys2Proof/Laws/Safety.lean ====
section
/-! SUPPORT. The invariants of Safety.lean as checks that run, each with the proof that passing the check means
the invariant: for concrete states, so that no test proves an invariant by hand. -/

namespace Sys2Proof.Machine

/-- TimerInv as a check over the slots that exist and the ids that are listed. -/
def timerCheck (s : State) : Bool :=
  decide (s.timers.length = s.cfg.timerCount) && decide s.tlist.Nodup && decide s.expq.Nodup &&
  (List.range s.timers.length).all (fun t =>
    decide (t ∈ s.tlist ↔ (slotAt s t).st = .armed) &&
    decide (t ∈ s.expq ↔ (slotAt s t).st = .fired) &&
    (slotAt s t).rld.all (fun p => decide (s.cfg.gran ≤ p.toNat))) &&
  s.tlist.all (fun t =>
    decide (t < s.timers.length) && (slotAt s t).rem.isSome && (slotAt s t).rld.isSome) &&
  s.expq.all (fun t => decide (t < s.timers.length))

theorem timerInv_of_check {s : State} (h : timerCheck s = true) : TimerInv s := by
  simp only [timerCheck, Bool.and_eq_true, decide_eq_true_eq, List.all_eq_true, List.mem_range] at h
  obtain ⟨⟨⟨⟨⟨hl, ht⟩, he⟩, hs⟩, hw⟩, hq⟩ := h
  have hout : ∀ t, ¬ t < s.timers.length → slotAt s t = Slot.unused :=
    fun t h => slotAt_of_ge (Nat.not_lt.mp h)
  refine ⟨hl, ht, he, fun t => ?_, fun t => ?_, fun t hm => ⟨(hw t hm).1.2, (hw t hm).2⟩,
    fun t p hp => ?_⟩
  · by_cases hlt : t < s.timers.length
    · exact (hs t hlt).1.1
    · simp only [hout t hlt, Slot.unused]
      constructor
      · exact fun hm => absurd (hw t hm).1.1 hlt
      · intro h
        cases h
  · by_cases hlt : t < s.timers.length
    · exact (hs t hlt).1.2
    · simp only [hout t hlt, Slot.unused]
      constructor
      · exact fun hm => absurd (hq t hm) hlt
      · intro h
        cases h
  · by_cases hlt : t < s.timers.length
    · have := (hs t hlt).2
      simpa [hp] using this
    · rw [hout t hlt] at hp
      cases hp

/-- TransferInv as a check. -/
def transferCheck (s : State) : Bool :=
  decide (s.txIdx.toNat ≤ s.cfg.xferLen) && decide (s.txCh = .run → s.txIdx.toNat < s.cfg.xferLen) &&
  decide (s.txCh = .done → s.txIdx.toNat = s.cfg.xferLen) &&
  decide (s.pendTx = true ↔ s.txCh ≠ .idle) &&
  decide (s.rxIdx.toNat ≤ s.cfg.xferLen) && decide (s.rxCh = .run → s.rxIdx.toNat < s.cfg.xferLen) &&
  decide (s.rxCh = .done → s.rxIdx.toNat = s.cfg.xferLen) &&
  decide (s.pendRx = true ↔ s.rxCh ≠ .idle) && decide (s.rxEn = s.pendRx) &&
  decide (s.txFifo.length ≤ s.cfg.txFifoDepth) && decide (s.rxFifo.length ≤ s.cfg.rxFifoDepth) &&
  decide (s.ctlLeft.toNat ≤ s.cfg.xferLen) && decide (s.cfg.role = .worker → s.ctlLeft = 0) &&
  decide (s.cfg.role = .controller → s.csPin = true ∧ s.csIrq = false ∧ s.lastLevel = true) &&
  decide (s.misMask.toNat < 2 ^ s.cfg.workers)

theorem transferInv_of_check {s : State} (h : transferCheck s = true) : TransferInv s := by
  simp only [transferCheck, Bool.and_eq_true, decide_eq_true_eq] at h
  obtain ⟨⟨⟨⟨⟨⟨⟨⟨⟨⟨⟨⟨⟨⟨a, b⟩, c⟩, d⟩, e⟩, f⟩, g⟩, i⟩, j⟩, k⟩, l⟩, m⟩, n⟩, o⟩, p⟩ := h
  exact ⟨a, b, c, d, e, f, g, i, j, k, l, m, n, o, p⟩

/-- BufferInv as a check over the listed words. -/
def bufferCheck (s : State) : Bool :=
  Memory.wf s.buf && s.buf.all fun c => decide (c.1 < bufWords s.cfg)

/-- A word that is read is listed. -/
theorem Memory.mem_of_get {m : Memory} {a : Nat} {w : Word} (h : m.get a = some w) : (a, w) ∈ m := by
  induction m with
  | nil => cases h
  | cons c m ih =>
    obtain ⟨b, x⟩ := c
    unfold Memory.get at h
    split at h
    · rename_i hb
      cases h
      exact hb ▸ List.mem_cons_self ..
    · exact List.mem_cons_of_mem _ (ih h)

theorem bufferInv_of_check {s : State} (h : bufferCheck s = true) : BufferInv s := by
  simp only [bufferCheck, Bool.and_eq_true, List.all_eq_true, decide_eq_true_eq] at h
  refine ⟨h.1, fun a ha => ?_⟩
  obtain ⟨w, hw⟩ := Option.isSome_iff_exists.mp ha
  exact h.2 _ (Memory.mem_of_get hw)

/-- The slot of a CRC_MISMATCH record is a worker slot. -/
def slotCheck (workers : Nat) : Diag → Bool
  | .overrun => true
  | .crcMismatch k => decide (k < workers)
  | .frameClosed _ _ => true

/-- DiagInv and LatchInv as a check. -/
def recordCheckAll (s : State) : Bool :=
  decide (s.ovrCnt = BitVec.ofNat 32 (s.diag.count .overrun)) &&
  decide (s.misCnt = BitVec.ofNat 32 (s.diag.countP isMismatch)) &&
  s.diag.all (slotCheck s.cfg.workers) &&
  decide (s.faulted = false → s.fcode = 0 ∧ s.fop = 0 ∧ s.farg = 0) &&
  decide (s.faulted = true → 1 ≤ s.fcode.toNat ∧ s.fcode.toNat ≤ 9) &&
  decide (s.crcResult.isSome → s.tableValid = true) &&
  decide (s.crcMatch.isSome → s.tableValid = true)

theorem diagInv_of_check {s : State} (h : recordCheckAll s = true) : DiagInv s ∧ LatchInv s := by
  simp only [recordCheckAll, Bool.and_eq_true, decide_eq_true_eq, List.all_eq_true] at h
  obtain ⟨⟨⟨⟨⟨⟨a, b⟩, c⟩, d⟩, e⟩, f⟩, g⟩ := h
  exact ⟨⟨a, b, fun k hk => by simpa [slotCheck] using c _ hk⟩, ⟨d, e, f, g⟩⟩

/-- Inv as a check. -/
def invCheck (s : State) : Bool :=
  configValid s.cfg && timerCheck s && transferCheck s && bufferCheck s && recordCheckAll s

theorem inv_of_check {s : State} (h : invCheck s = true) : Inv s := by
  simp only [invCheck, Bool.and_eq_true] at h
  obtain ⟨⟨⟨⟨a, b⟩, c⟩, d⟩, e⟩ := h
  exact ⟨a, timerInv_of_check b, transferInv_of_check c, bufferInv_of_check d,
    (diagInv_of_check e).1, (diagInv_of_check e).2⟩

end Sys2Proof.Machine
end

