-- ==== Sys2Proof/Laws/State.lean ====
section
/-! SUPPORT. One lemma for each field of State after each named update, and one equation for each update
that has cases: no later proof unfolds a record update. -/

namespace Sys2Proof.Machine

/-! ### raiseFault -/

@[simp] theorem raiseFault_cfg (op : Byte) (t : Trap) (s : State) :
    (raiseFault op t s).cfg = s.cfg := rfl
@[simp] theorem raiseFault_inputs (op : Byte) (t : Trap) (s : State) :
    (raiseFault op t s).inputs = s.inputs := rfl
@[simp] theorem raiseFault_readOut (op : Byte) (t : Trap) (s : State) :
    (raiseFault op t s).readOut = s.readOut := rfl
@[simp] theorem raiseFault_tableValid (op : Byte) (t : Trap) (s : State) :
    (raiseFault op t s).tableValid = s.tableValid := rfl
@[simp] theorem raiseFault_crcResult (op : Byte) (t : Trap) (s : State) :
    (raiseFault op t s).crcResult = s.crcResult := rfl
@[simp] theorem raiseFault_crcMatch (op : Byte) (t : Trap) (s : State) :
    (raiseFault op t s).crcMatch = s.crcMatch := rfl
@[simp] theorem raiseFault_buf (op : Byte) (t : Trap) (s : State) :
    (raiseFault op t s).buf = s.buf := rfl
@[simp] theorem raiseFault_csPin (op : Byte) (t : Trap) (s : State) :
    (raiseFault op t s).csPin = s.csPin := rfl
@[simp] theorem raiseFault_csIrq (op : Byte) (t : Trap) (s : State) :
    (raiseFault op t s).csIrq = s.csIrq := rfl
@[simp] theorem raiseFault_lastLevel (op : Byte) (t : Trap) (s : State) :
    (raiseFault op t s).lastLevel = s.lastLevel := rfl
@[simp] theorem raiseFault_pendTx (op : Byte) (t : Trap) (s : State) :
    (raiseFault op t s).pendTx = s.pendTx := rfl
@[simp] theorem raiseFault_pendRx (op : Byte) (t : Trap) (s : State) :
    (raiseFault op t s).pendRx = s.pendRx := rfl
@[simp] theorem raiseFault_rxEn (op : Byte) (t : Trap) (s : State) :
    (raiseFault op t s).rxEn = s.rxEn := rfl
@[simp] theorem raiseFault_txCh (op : Byte) (t : Trap) (s : State) :
    (raiseFault op t s).txCh = s.txCh := rfl
@[simp] theorem raiseFault_txIdx (op : Byte) (t : Trap) (s : State) :
    (raiseFault op t s).txIdx = s.txIdx := rfl
@[simp] theorem raiseFault_rxCh (op : Byte) (t : Trap) (s : State) :
    (raiseFault op t s).rxCh = s.rxCh := rfl
@[simp] theorem raiseFault_rxIdx (op : Byte) (t : Trap) (s : State) :
    (raiseFault op t s).rxIdx = s.rxIdx := rfl
@[simp] theorem raiseFault_txFifo (op : Byte) (t : Trap) (s : State) :
    (raiseFault op t s).txFifo = s.txFifo := rfl
@[simp] theorem raiseFault_rxFifo (op : Byte) (t : Trap) (s : State) :
    (raiseFault op t s).rxFifo = s.rxFifo := rfl
@[simp] theorem raiseFault_ctlLeft (op : Byte) (t : Trap) (s : State) :
    (raiseFault op t s).ctlLeft = s.ctlLeft := rfl
@[simp] theorem raiseFault_ovrCnt (op : Byte) (t : Trap) (s : State) :
    (raiseFault op t s).ovrCnt = s.ovrCnt := rfl
@[simp] theorem raiseFault_misCnt (op : Byte) (t : Trap) (s : State) :
    (raiseFault op t s).misCnt = s.misCnt := rfl
@[simp] theorem raiseFault_misMask (op : Byte) (t : Trap) (s : State) :
    (raiseFault op t s).misMask = s.misMask := rfl
@[simp] theorem raiseFault_txBytes (op : Byte) (t : Trap) (s : State) :
    (raiseFault op t s).txBytes = s.txBytes := rfl
@[simp] theorem raiseFault_rxBytes (op : Byte) (t : Trap) (s : State) :
    (raiseFault op t s).rxBytes = s.rxBytes := rfl
@[simp] theorem raiseFault_diag (op : Byte) (t : Trap) (s : State) :
    (raiseFault op t s).diag = s.diag := rfl
@[simp] theorem raiseFault_wireOut (op : Byte) (t : Trap) (s : State) :
    (raiseFault op t s).wireOut = s.wireOut := rfl
@[simp] theorem raiseFault_live (op : Byte) (t : Trap) (s : State) :
    (raiseFault op t s).live = s.live := rfl
@[simp] theorem raiseFault_now (op : Byte) (t : Trap) (s : State) :
    (raiseFault op t s).now = s.now := rfl
@[simp] theorem raiseFault_timers (op : Byte) (t : Trap) (s : State) :
    (raiseFault op t s).timers = s.timers := rfl
@[simp] theorem raiseFault_tlist (op : Byte) (t : Trap) (s : State) :
    (raiseFault op t s).tlist = s.tlist := rfl
@[simp] theorem raiseFault_expq (op : Byte) (t : Trap) (s : State) :
    (raiseFault op t s).expq = s.expq := rfl
@[simp] theorem raiseFault_rdData (op : Byte) (t : Trap) (s : State) :
    (raiseFault op t s).rdData = s.rdData := rfl
@[simp] theorem raiseFault_popResult (op : Byte) (t : Trap) (s : State) :
    (raiseFault op t s).popResult = s.popResult := rfl
@[simp] theorem raiseFault_faulted (op : Byte) (t : Trap) (s : State) :
    (raiseFault op t s).faulted = true := rfl
@[simp] theorem raiseFault_fcode (op : Byte) (t : Trap) (s : State) :
    (raiseFault op t s).fcode = faultCode t.kind := rfl
@[simp] theorem raiseFault_fop (op : Byte) (t : Trap) (s : State) :
    (raiseFault op t s).fop = op := rfl
@[simp] theorem raiseFault_farg (op : Byte) (t : Trap) (s : State) :
    (raiseFault op t s).farg = BitVec.ofNat 16 t.info := rfl

/-! ### bufSet -/

@[simp] theorem bufSet_cfg (a : Nat) (v : Word) (s : State) : (bufSet a v s).cfg = s.cfg := rfl
@[simp] theorem bufSet_inputs (a : Nat) (v : Word) (s : State) :
    (bufSet a v s).inputs = s.inputs := rfl
@[simp] theorem bufSet_readOut (a : Nat) (v : Word) (s : State) :
    (bufSet a v s).readOut = s.readOut := rfl
@[simp] theorem bufSet_tableValid (a : Nat) (v : Word) (s : State) :
    (bufSet a v s).tableValid = s.tableValid := rfl
@[simp] theorem bufSet_crcResult (a : Nat) (v : Word) (s : State) :
    (bufSet a v s).crcResult = s.crcResult := rfl
@[simp] theorem bufSet_crcMatch (a : Nat) (v : Word) (s : State) :
    (bufSet a v s).crcMatch = s.crcMatch := rfl
@[simp] theorem bufSet_buf (a : Nat) (v : Word) (s : State) :
    (bufSet a v s).buf = Memory.set s.buf a v := rfl
@[simp] theorem bufSet_csPin (a : Nat) (v : Word) (s : State) :
    (bufSet a v s).csPin = s.csPin := rfl
@[simp] theorem bufSet_csIrq (a : Nat) (v : Word) (s : State) :
    (bufSet a v s).csIrq = s.csIrq := rfl
@[simp] theorem bufSet_lastLevel (a : Nat) (v : Word) (s : State) :
    (bufSet a v s).lastLevel = s.lastLevel := rfl
@[simp] theorem bufSet_pendTx (a : Nat) (v : Word) (s : State) :
    (bufSet a v s).pendTx = s.pendTx := rfl
@[simp] theorem bufSet_pendRx (a : Nat) (v : Word) (s : State) :
    (bufSet a v s).pendRx = s.pendRx := rfl
@[simp] theorem bufSet_rxEn (a : Nat) (v : Word) (s : State) : (bufSet a v s).rxEn = s.rxEn := rfl
@[simp] theorem bufSet_txCh (a : Nat) (v : Word) (s : State) : (bufSet a v s).txCh = s.txCh := rfl
@[simp] theorem bufSet_txIdx (a : Nat) (v : Word) (s : State) :
    (bufSet a v s).txIdx = s.txIdx := rfl
@[simp] theorem bufSet_rxCh (a : Nat) (v : Word) (s : State) : (bufSet a v s).rxCh = s.rxCh := rfl
@[simp] theorem bufSet_rxIdx (a : Nat) (v : Word) (s : State) :
    (bufSet a v s).rxIdx = s.rxIdx := rfl
@[simp] theorem bufSet_txFifo (a : Nat) (v : Word) (s : State) :
    (bufSet a v s).txFifo = s.txFifo := rfl
@[simp] theorem bufSet_rxFifo (a : Nat) (v : Word) (s : State) :
    (bufSet a v s).rxFifo = s.rxFifo := rfl
@[simp] theorem bufSet_ctlLeft (a : Nat) (v : Word) (s : State) :
    (bufSet a v s).ctlLeft = s.ctlLeft := rfl
@[simp] theorem bufSet_ovrCnt (a : Nat) (v : Word) (s : State) :
    (bufSet a v s).ovrCnt = s.ovrCnt := rfl
@[simp] theorem bufSet_misCnt (a : Nat) (v : Word) (s : State) :
    (bufSet a v s).misCnt = s.misCnt := rfl
@[simp] theorem bufSet_misMask (a : Nat) (v : Word) (s : State) :
    (bufSet a v s).misMask = s.misMask := rfl
@[simp] theorem bufSet_txBytes (a : Nat) (v : Word) (s : State) :
    (bufSet a v s).txBytes = s.txBytes := rfl
@[simp] theorem bufSet_rxBytes (a : Nat) (v : Word) (s : State) :
    (bufSet a v s).rxBytes = s.rxBytes := rfl
@[simp] theorem bufSet_diag (a : Nat) (v : Word) (s : State) : (bufSet a v s).diag = s.diag := rfl
@[simp] theorem bufSet_wireOut (a : Nat) (v : Word) (s : State) :
    (bufSet a v s).wireOut = s.wireOut := rfl
@[simp] theorem bufSet_live (a : Nat) (v : Word) (s : State) : (bufSet a v s).live = s.live := rfl
@[simp] theorem bufSet_now (a : Nat) (v : Word) (s : State) : (bufSet a v s).now = s.now := rfl
@[simp] theorem bufSet_timers (a : Nat) (v : Word) (s : State) :
    (bufSet a v s).timers = s.timers := rfl
@[simp] theorem bufSet_tlist (a : Nat) (v : Word) (s : State) :
    (bufSet a v s).tlist = s.tlist := rfl
@[simp] theorem bufSet_expq (a : Nat) (v : Word) (s : State) : (bufSet a v s).expq = s.expq := rfl
@[simp] theorem bufSet_rdData (a : Nat) (v : Word) (s : State) :
    (bufSet a v s).rdData = s.rdData := rfl
@[simp] theorem bufSet_popResult (a : Nat) (v : Word) (s : State) :
    (bufSet a v s).popResult = s.popResult := rfl
@[simp] theorem bufSet_faulted (a : Nat) (v : Word) (s : State) :
    (bufSet a v s).faulted = s.faulted := rfl
@[simp] theorem bufSet_fcode (a : Nat) (v : Word) (s : State) :
    (bufSet a v s).fcode = s.fcode := rfl
@[simp] theorem bufSet_fop (a : Nat) (v : Word) (s : State) : (bufSet a v s).fop = s.fop := rfl
@[simp] theorem bufSet_farg (a : Nat) (v : Word) (s : State) : (bufSet a v s).farg = s.farg := rfl

/-! ### slotSet -/

@[simp] theorem slotSet_cfg (t : Nat) (x : Slot) (s : State) : (slotSet t x s).cfg = s.cfg := rfl
@[simp] theorem slotSet_inputs (t : Nat) (x : Slot) (s : State) :
    (slotSet t x s).inputs = s.inputs := rfl
@[simp] theorem slotSet_readOut (t : Nat) (x : Slot) (s : State) :
    (slotSet t x s).readOut = s.readOut := rfl
@[simp] theorem slotSet_tableValid (t : Nat) (x : Slot) (s : State) :
    (slotSet t x s).tableValid = s.tableValid := rfl
@[simp] theorem slotSet_crcResult (t : Nat) (x : Slot) (s : State) :
    (slotSet t x s).crcResult = s.crcResult := rfl
@[simp] theorem slotSet_crcMatch (t : Nat) (x : Slot) (s : State) :
    (slotSet t x s).crcMatch = s.crcMatch := rfl
@[simp] theorem slotSet_buf (t : Nat) (x : Slot) (s : State) : (slotSet t x s).buf = s.buf := rfl
@[simp] theorem slotSet_csPin (t : Nat) (x : Slot) (s : State) :
    (slotSet t x s).csPin = s.csPin := rfl
@[simp] theorem slotSet_csIrq (t : Nat) (x : Slot) (s : State) :
    (slotSet t x s).csIrq = s.csIrq := rfl
@[simp] theorem slotSet_lastLevel (t : Nat) (x : Slot) (s : State) :
    (slotSet t x s).lastLevel = s.lastLevel := rfl
@[simp] theorem slotSet_pendTx (t : Nat) (x : Slot) (s : State) :
    (slotSet t x s).pendTx = s.pendTx := rfl
@[simp] theorem slotSet_pendRx (t : Nat) (x : Slot) (s : State) :
    (slotSet t x s).pendRx = s.pendRx := rfl
@[simp] theorem slotSet_rxEn (t : Nat) (x : Slot) (s : State) : (slotSet t x s).rxEn = s.rxEn := rfl
@[simp] theorem slotSet_txCh (t : Nat) (x : Slot) (s : State) : (slotSet t x s).txCh = s.txCh := rfl
@[simp] theorem slotSet_txIdx (t : Nat) (x : Slot) (s : State) :
    (slotSet t x s).txIdx = s.txIdx := rfl
@[simp] theorem slotSet_rxCh (t : Nat) (x : Slot) (s : State) : (slotSet t x s).rxCh = s.rxCh := rfl
@[simp] theorem slotSet_rxIdx (t : Nat) (x : Slot) (s : State) :
    (slotSet t x s).rxIdx = s.rxIdx := rfl
@[simp] theorem slotSet_txFifo (t : Nat) (x : Slot) (s : State) :
    (slotSet t x s).txFifo = s.txFifo := rfl
@[simp] theorem slotSet_rxFifo (t : Nat) (x : Slot) (s : State) :
    (slotSet t x s).rxFifo = s.rxFifo := rfl
@[simp] theorem slotSet_ctlLeft (t : Nat) (x : Slot) (s : State) :
    (slotSet t x s).ctlLeft = s.ctlLeft := rfl
@[simp] theorem slotSet_ovrCnt (t : Nat) (x : Slot) (s : State) :
    (slotSet t x s).ovrCnt = s.ovrCnt := rfl
@[simp] theorem slotSet_misCnt (t : Nat) (x : Slot) (s : State) :
    (slotSet t x s).misCnt = s.misCnt := rfl
@[simp] theorem slotSet_misMask (t : Nat) (x : Slot) (s : State) :
    (slotSet t x s).misMask = s.misMask := rfl
@[simp] theorem slotSet_txBytes (t : Nat) (x : Slot) (s : State) :
    (slotSet t x s).txBytes = s.txBytes := rfl
@[simp] theorem slotSet_rxBytes (t : Nat) (x : Slot) (s : State) :
    (slotSet t x s).rxBytes = s.rxBytes := rfl
@[simp] theorem slotSet_diag (t : Nat) (x : Slot) (s : State) : (slotSet t x s).diag = s.diag := rfl
@[simp] theorem slotSet_wireOut (t : Nat) (x : Slot) (s : State) :
    (slotSet t x s).wireOut = s.wireOut := rfl
@[simp] theorem slotSet_live (t : Nat) (x : Slot) (s : State) : (slotSet t x s).live = s.live := rfl
@[simp] theorem slotSet_now (t : Nat) (x : Slot) (s : State) : (slotSet t x s).now = s.now := rfl
@[simp] theorem slotSet_timers (t : Nat) (x : Slot) (s : State) :
    (slotSet t x s).timers = s.timers.set t x := rfl
@[simp] theorem slotSet_tlist (t : Nat) (x : Slot) (s : State) :
    (slotSet t x s).tlist = s.tlist := rfl
@[simp] theorem slotSet_expq (t : Nat) (x : Slot) (s : State) : (slotSet t x s).expq = s.expq := rfl
@[simp] theorem slotSet_rdData (t : Nat) (x : Slot) (s : State) :
    (slotSet t x s).rdData = s.rdData := rfl
@[simp] theorem slotSet_popResult (t : Nat) (x : Slot) (s : State) :
    (slotSet t x s).popResult = s.popResult := rfl
@[simp] theorem slotSet_faulted (t : Nat) (x : Slot) (s : State) :
    (slotSet t x s).faulted = s.faulted := rfl
@[simp] theorem slotSet_fcode (t : Nat) (x : Slot) (s : State) :
    (slotSet t x s).fcode = s.fcode := rfl
@[simp] theorem slotSet_fop (t : Nat) (x : Slot) (s : State) : (slotSet t x s).fop = s.fop := rfl
@[simp] theorem slotSet_farg (t : Nat) (x : Slot) (s : State) : (slotSet t x s).farg = s.farg := rfl

/-! ### removeTlist -/

@[simp] theorem removeTlist_cfg (t : Nat) (s : State) : (removeTlist t s).cfg = s.cfg := rfl
@[simp] theorem removeTlist_inputs (t : Nat) (s : State) :
    (removeTlist t s).inputs = s.inputs := rfl
@[simp] theorem removeTlist_readOut (t : Nat) (s : State) :
    (removeTlist t s).readOut = s.readOut := rfl
@[simp] theorem removeTlist_tableValid (t : Nat) (s : State) :
    (removeTlist t s).tableValid = s.tableValid := rfl
@[simp] theorem removeTlist_crcResult (t : Nat) (s : State) :
    (removeTlist t s).crcResult = s.crcResult := rfl
@[simp] theorem removeTlist_crcMatch (t : Nat) (s : State) :
    (removeTlist t s).crcMatch = s.crcMatch := rfl
@[simp] theorem removeTlist_buf (t : Nat) (s : State) : (removeTlist t s).buf = s.buf := rfl
@[simp] theorem removeTlist_csPin (t : Nat) (s : State) : (removeTlist t s).csPin = s.csPin := rfl
@[simp] theorem removeTlist_csIrq (t : Nat) (s : State) : (removeTlist t s).csIrq = s.csIrq := rfl
@[simp] theorem removeTlist_lastLevel (t : Nat) (s : State) :
    (removeTlist t s).lastLevel = s.lastLevel := rfl
@[simp] theorem removeTlist_pendTx (t : Nat) (s : State) :
    (removeTlist t s).pendTx = s.pendTx := rfl
@[simp] theorem removeTlist_pendRx (t : Nat) (s : State) :
    (removeTlist t s).pendRx = s.pendRx := rfl
@[simp] theorem removeTlist_rxEn (t : Nat) (s : State) : (removeTlist t s).rxEn = s.rxEn := rfl
@[simp] theorem removeTlist_txCh (t : Nat) (s : State) : (removeTlist t s).txCh = s.txCh := rfl
@[simp] theorem removeTlist_txIdx (t : Nat) (s : State) : (removeTlist t s).txIdx = s.txIdx := rfl
@[simp] theorem removeTlist_rxCh (t : Nat) (s : State) : (removeTlist t s).rxCh = s.rxCh := rfl
@[simp] theorem removeTlist_rxIdx (t : Nat) (s : State) : (removeTlist t s).rxIdx = s.rxIdx := rfl
@[simp] theorem removeTlist_txFifo (t : Nat) (s : State) :
    (removeTlist t s).txFifo = s.txFifo := rfl
@[simp] theorem removeTlist_rxFifo (t : Nat) (s : State) :
    (removeTlist t s).rxFifo = s.rxFifo := rfl
@[simp] theorem removeTlist_ctlLeft (t : Nat) (s : State) :
    (removeTlist t s).ctlLeft = s.ctlLeft := rfl
@[simp] theorem removeTlist_ovrCnt (t : Nat) (s : State) :
    (removeTlist t s).ovrCnt = s.ovrCnt := rfl
@[simp] theorem removeTlist_misCnt (t : Nat) (s : State) :
    (removeTlist t s).misCnt = s.misCnt := rfl
@[simp] theorem removeTlist_misMask (t : Nat) (s : State) :
    (removeTlist t s).misMask = s.misMask := rfl
@[simp] theorem removeTlist_txBytes (t : Nat) (s : State) :
    (removeTlist t s).txBytes = s.txBytes := rfl
@[simp] theorem removeTlist_rxBytes (t : Nat) (s : State) :
    (removeTlist t s).rxBytes = s.rxBytes := rfl
@[simp] theorem removeTlist_diag (t : Nat) (s : State) : (removeTlist t s).diag = s.diag := rfl
@[simp] theorem removeTlist_wireOut (t : Nat) (s : State) :
    (removeTlist t s).wireOut = s.wireOut := rfl
@[simp] theorem removeTlist_live (t : Nat) (s : State) : (removeTlist t s).live = s.live := rfl
@[simp] theorem removeTlist_now (t : Nat) (s : State) : (removeTlist t s).now = s.now := rfl
@[simp] theorem removeTlist_timers (t : Nat) (s : State) :
    (removeTlist t s).timers = s.timers := rfl
@[simp] theorem removeTlist_tlist (t : Nat) (s : State) :
    (removeTlist t s).tlist = s.tlist.erase t := rfl
@[simp] theorem removeTlist_expq (t : Nat) (s : State) : (removeTlist t s).expq = s.expq := rfl
@[simp] theorem removeTlist_rdData (t : Nat) (s : State) :
    (removeTlist t s).rdData = s.rdData := rfl
@[simp] theorem removeTlist_popResult (t : Nat) (s : State) :
    (removeTlist t s).popResult = s.popResult := rfl
@[simp] theorem removeTlist_faulted (t : Nat) (s : State) :
    (removeTlist t s).faulted = s.faulted := rfl
@[simp] theorem removeTlist_fcode (t : Nat) (s : State) : (removeTlist t s).fcode = s.fcode := rfl
@[simp] theorem removeTlist_fop (t : Nat) (s : State) : (removeTlist t s).fop = s.fop := rfl
@[simp] theorem removeTlist_farg (t : Nat) (s : State) : (removeTlist t s).farg = s.farg := rfl

/-! ### emit -/

@[simp] theorem emit_cfg (d : Diag) (s : State) : (emit d s).cfg = s.cfg := rfl
@[simp] theorem emit_inputs (d : Diag) (s : State) : (emit d s).inputs = s.inputs := rfl
@[simp] theorem emit_readOut (d : Diag) (s : State) : (emit d s).readOut = s.readOut := rfl
@[simp] theorem emit_tableValid (d : Diag) (s : State) : (emit d s).tableValid = s.tableValid := rfl
@[simp] theorem emit_crcResult (d : Diag) (s : State) : (emit d s).crcResult = s.crcResult := rfl
@[simp] theorem emit_crcMatch (d : Diag) (s : State) : (emit d s).crcMatch = s.crcMatch := rfl
@[simp] theorem emit_buf (d : Diag) (s : State) : (emit d s).buf = s.buf := rfl
@[simp] theorem emit_csPin (d : Diag) (s : State) : (emit d s).csPin = s.csPin := rfl
@[simp] theorem emit_csIrq (d : Diag) (s : State) : (emit d s).csIrq = s.csIrq := rfl
@[simp] theorem emit_lastLevel (d : Diag) (s : State) : (emit d s).lastLevel = s.lastLevel := rfl
@[simp] theorem emit_pendTx (d : Diag) (s : State) : (emit d s).pendTx = s.pendTx := rfl
@[simp] theorem emit_pendRx (d : Diag) (s : State) : (emit d s).pendRx = s.pendRx := rfl
@[simp] theorem emit_rxEn (d : Diag) (s : State) : (emit d s).rxEn = s.rxEn := rfl
@[simp] theorem emit_txCh (d : Diag) (s : State) : (emit d s).txCh = s.txCh := rfl
@[simp] theorem emit_txIdx (d : Diag) (s : State) : (emit d s).txIdx = s.txIdx := rfl
@[simp] theorem emit_rxCh (d : Diag) (s : State) : (emit d s).rxCh = s.rxCh := rfl
@[simp] theorem emit_rxIdx (d : Diag) (s : State) : (emit d s).rxIdx = s.rxIdx := rfl
@[simp] theorem emit_txFifo (d : Diag) (s : State) : (emit d s).txFifo = s.txFifo := rfl
@[simp] theorem emit_rxFifo (d : Diag) (s : State) : (emit d s).rxFifo = s.rxFifo := rfl
@[simp] theorem emit_ctlLeft (d : Diag) (s : State) : (emit d s).ctlLeft = s.ctlLeft := rfl
@[simp] theorem emit_ovrCnt (d : Diag) (s : State) : (emit d s).ovrCnt = s.ovrCnt := rfl
@[simp] theorem emit_misCnt (d : Diag) (s : State) : (emit d s).misCnt = s.misCnt := rfl
@[simp] theorem emit_misMask (d : Diag) (s : State) : (emit d s).misMask = s.misMask := rfl
@[simp] theorem emit_txBytes (d : Diag) (s : State) : (emit d s).txBytes = s.txBytes := rfl
@[simp] theorem emit_rxBytes (d : Diag) (s : State) : (emit d s).rxBytes = s.rxBytes := rfl
@[simp] theorem emit_diag (d : Diag) (s : State) : (emit d s).diag = s.diag ++ [d] := rfl
@[simp] theorem emit_wireOut (d : Diag) (s : State) : (emit d s).wireOut = s.wireOut := rfl
@[simp] theorem emit_live (d : Diag) (s : State) : (emit d s).live = s.live := rfl
@[simp] theorem emit_now (d : Diag) (s : State) : (emit d s).now = s.now := rfl
@[simp] theorem emit_timers (d : Diag) (s : State) : (emit d s).timers = s.timers := rfl
@[simp] theorem emit_tlist (d : Diag) (s : State) : (emit d s).tlist = s.tlist := rfl
@[simp] theorem emit_expq (d : Diag) (s : State) : (emit d s).expq = s.expq := rfl
@[simp] theorem emit_rdData (d : Diag) (s : State) : (emit d s).rdData = s.rdData := rfl
@[simp] theorem emit_popResult (d : Diag) (s : State) : (emit d s).popResult = s.popResult := rfl
@[simp] theorem emit_faulted (d : Diag) (s : State) : (emit d s).faulted = s.faulted := rfl
@[simp] theorem emit_fcode (d : Diag) (s : State) : (emit d s).fcode = s.fcode := rfl
@[simp] theorem emit_fop (d : Diag) (s : State) : (emit d s).fop = s.fop := rfl
@[simp] theorem emit_farg (d : Diag) (s : State) : (emit d s).farg = s.farg := rfl

/-! ### startChannels -/

@[simp] theorem startChannels_cfg (s : State) : (startChannels s).cfg = s.cfg := rfl
@[simp] theorem startChannels_inputs (s : State) : (startChannels s).inputs = s.inputs := rfl
@[simp] theorem startChannels_readOut (s : State) : (startChannels s).readOut = s.readOut := rfl
@[simp] theorem startChannels_tableValid (s : State) :
    (startChannels s).tableValid = s.tableValid := rfl
@[simp] theorem startChannels_crcResult (s : State) :
    (startChannels s).crcResult = s.crcResult := rfl
@[simp] theorem startChannels_crcMatch (s : State) : (startChannels s).crcMatch = s.crcMatch := rfl
@[simp] theorem startChannels_buf (s : State) : (startChannels s).buf = s.buf := rfl
@[simp] theorem startChannels_csPin (s : State) : (startChannels s).csPin = s.csPin := rfl
@[simp] theorem startChannels_csIrq (s : State) : (startChannels s).csIrq = s.csIrq := rfl
@[simp] theorem startChannels_lastLevel (s : State) :
    (startChannels s).lastLevel = s.lastLevel := rfl
@[simp] theorem startChannels_pendTx (s : State) : (startChannels s).pendTx = true := rfl
@[simp] theorem startChannels_pendRx (s : State) : (startChannels s).pendRx = true := rfl
@[simp] theorem startChannels_rxEn (s : State) : (startChannels s).rxEn = true := rfl
@[simp] theorem startChannels_txCh (s : State) : (startChannels s).txCh = .run := rfl
@[simp] theorem startChannels_txIdx (s : State) : (startChannels s).txIdx = 0 := rfl
@[simp] theorem startChannels_rxCh (s : State) : (startChannels s).rxCh = .run := rfl
@[simp] theorem startChannels_rxIdx (s : State) : (startChannels s).rxIdx = 0 := rfl
@[simp] theorem startChannels_txFifo (s : State) : (startChannels s).txFifo = s.txFifo := rfl
@[simp] theorem startChannels_rxFifo (s : State) : (startChannels s).rxFifo = s.rxFifo := rfl
@[simp] theorem startChannels_ctlLeft (s : State) : (startChannels s).ctlLeft = s.ctlLeft := rfl
@[simp] theorem startChannels_ovrCnt (s : State) : (startChannels s).ovrCnt = s.ovrCnt := rfl
@[simp] theorem startChannels_misCnt (s : State) : (startChannels s).misCnt = s.misCnt := rfl
@[simp] theorem startChannels_misMask (s : State) : (startChannels s).misMask = s.misMask := rfl
@[simp] theorem startChannels_txBytes (s : State) : (startChannels s).txBytes = s.txBytes := rfl
@[simp] theorem startChannels_rxBytes (s : State) : (startChannels s).rxBytes = s.rxBytes := rfl
@[simp] theorem startChannels_diag (s : State) : (startChannels s).diag = s.diag := rfl
@[simp] theorem startChannels_wireOut (s : State) : (startChannels s).wireOut = s.wireOut := rfl
@[simp] theorem startChannels_live (s : State) : (startChannels s).live = s.live := rfl
@[simp] theorem startChannels_now (s : State) : (startChannels s).now = s.now := rfl
@[simp] theorem startChannels_timers (s : State) : (startChannels s).timers = s.timers := rfl
@[simp] theorem startChannels_tlist (s : State) : (startChannels s).tlist = s.tlist := rfl
@[simp] theorem startChannels_expq (s : State) : (startChannels s).expq = s.expq := rfl
@[simp] theorem startChannels_rdData (s : State) : (startChannels s).rdData = s.rdData := rfl
@[simp] theorem startChannels_popResult (s : State) :
    (startChannels s).popResult = s.popResult := rfl
@[simp] theorem startChannels_faulted (s : State) : (startChannels s).faulted = s.faulted := rfl
@[simp] theorem startChannels_fcode (s : State) : (startChannels s).fcode = s.fcode := rfl
@[simp] theorem startChannels_fop (s : State) : (startChannels s).fop = s.fop := rfl
@[simp] theorem startChannels_farg (s : State) : (startChannels s).farg = s.farg := rfl

/-! ### closeFrame -/

@[simp] theorem closeFrame_cfg (s : State) : (closeFrame s).cfg = s.cfg := rfl
@[simp] theorem closeFrame_inputs (s : State) : (closeFrame s).inputs = s.inputs := rfl
@[simp] theorem closeFrame_readOut (s : State) : (closeFrame s).readOut = s.readOut := rfl
@[simp] theorem closeFrame_tableValid (s : State) : (closeFrame s).tableValid = s.tableValid := rfl
@[simp] theorem closeFrame_crcResult (s : State) : (closeFrame s).crcResult = s.crcResult := rfl
@[simp] theorem closeFrame_crcMatch (s : State) : (closeFrame s).crcMatch = s.crcMatch := rfl
@[simp] theorem closeFrame_buf (s : State) : (closeFrame s).buf = s.buf := rfl
@[simp] theorem closeFrame_csPin (s : State) : (closeFrame s).csPin = s.csPin := rfl
@[simp] theorem closeFrame_csIrq (s : State) : (closeFrame s).csIrq = s.csIrq := rfl
@[simp] theorem closeFrame_lastLevel (s : State) : (closeFrame s).lastLevel = s.lastLevel := rfl
@[simp] theorem closeFrame_pendTx (s : State) : (closeFrame s).pendTx = s.pendTx := rfl
@[simp] theorem closeFrame_pendRx (s : State) : (closeFrame s).pendRx = s.pendRx := rfl
@[simp] theorem closeFrame_rxEn (s : State) : (closeFrame s).rxEn = s.rxEn := rfl
@[simp] theorem closeFrame_txCh (s : State) : (closeFrame s).txCh = s.txCh := rfl
@[simp] theorem closeFrame_txIdx (s : State) : (closeFrame s).txIdx = s.txIdx := rfl
@[simp] theorem closeFrame_rxCh (s : State) : (closeFrame s).rxCh = s.rxCh := rfl
@[simp] theorem closeFrame_rxIdx (s : State) : (closeFrame s).rxIdx = s.rxIdx := rfl
@[simp] theorem closeFrame_txFifo (s : State) : (closeFrame s).txFifo = s.txFifo := rfl
@[simp] theorem closeFrame_rxFifo (s : State) : (closeFrame s).rxFifo = s.rxFifo := rfl
@[simp] theorem closeFrame_ctlLeft (s : State) : (closeFrame s).ctlLeft = s.ctlLeft := rfl
@[simp] theorem closeFrame_ovrCnt (s : State) : (closeFrame s).ovrCnt = s.ovrCnt := rfl
@[simp] theorem closeFrame_misCnt (s : State) : (closeFrame s).misCnt = s.misCnt := rfl
@[simp] theorem closeFrame_misMask (s : State) : (closeFrame s).misMask = s.misMask := rfl
@[simp] theorem closeFrame_txBytes (s : State) : (closeFrame s).txBytes = 2 * s.txIdx := rfl
@[simp] theorem closeFrame_rxBytes (s : State) : (closeFrame s).rxBytes = 2 * s.rxIdx := rfl
@[simp] theorem closeFrame_diag (s : State) :
    (closeFrame s).diag = s.diag ++ [.frameClosed (2 * s.txIdx) (2 * s.rxIdx)] := rfl
@[simp] theorem closeFrame_wireOut (s : State) : (closeFrame s).wireOut = s.wireOut := rfl
@[simp] theorem closeFrame_live (s : State) : (closeFrame s).live = s.live := rfl
@[simp] theorem closeFrame_now (s : State) : (closeFrame s).now = s.now := rfl
@[simp] theorem closeFrame_timers (s : State) : (closeFrame s).timers = s.timers := rfl
@[simp] theorem closeFrame_tlist (s : State) : (closeFrame s).tlist = s.tlist := rfl
@[simp] theorem closeFrame_expq (s : State) : (closeFrame s).expq = s.expq := rfl
@[simp] theorem closeFrame_rdData (s : State) : (closeFrame s).rdData = s.rdData := rfl
@[simp] theorem closeFrame_popResult (s : State) : (closeFrame s).popResult = s.popResult := rfl
@[simp] theorem closeFrame_faulted (s : State) : (closeFrame s).faulted = s.faulted := rfl
@[simp] theorem closeFrame_fcode (s : State) : (closeFrame s).fcode = s.fcode := rfl
@[simp] theorem closeFrame_fop (s : State) : (closeFrame s).fop = s.fop := rfl
@[simp] theorem closeFrame_farg (s : State) : (closeFrame s).farg = s.farg := rfl

/-! ### endReception -/

@[simp] theorem endReception_cfg (s : State) : (endReception s).cfg = s.cfg := rfl
@[simp] theorem endReception_inputs (s : State) : (endReception s).inputs = s.inputs := rfl
@[simp] theorem endReception_readOut (s : State) : (endReception s).readOut = s.readOut := rfl
@[simp] theorem endReception_tableValid (s : State) :
    (endReception s).tableValid = s.tableValid := rfl
@[simp] theorem endReception_crcResult (s : State) : (endReception s).crcResult = s.crcResult := rfl
@[simp] theorem endReception_crcMatch (s : State) : (endReception s).crcMatch = s.crcMatch := rfl
@[simp] theorem endReception_buf (s : State) : (endReception s).buf = s.buf := rfl
@[simp] theorem endReception_csPin (s : State) : (endReception s).csPin = s.csPin := rfl
@[simp] theorem endReception_csIrq (s : State) : (endReception s).csIrq = s.csIrq := rfl
@[simp] theorem endReception_lastLevel (s : State) : (endReception s).lastLevel = s.lastLevel := rfl
@[simp] theorem endReception_pendTx (s : State) : (endReception s).pendTx = s.pendTx := rfl
@[simp] theorem endReception_pendRx (s : State) : (endReception s).pendRx = false := rfl
@[simp] theorem endReception_rxEn (s : State) : (endReception s).rxEn = false := rfl
@[simp] theorem endReception_txCh (s : State) : (endReception s).txCh = s.txCh := rfl
@[simp] theorem endReception_txIdx (s : State) : (endReception s).txIdx = s.txIdx := rfl
@[simp] theorem endReception_rxCh (s : State) : (endReception s).rxCh = .idle := rfl
@[simp] theorem endReception_rxIdx (s : State) : (endReception s).rxIdx = s.rxIdx := rfl
@[simp] theorem endReception_txFifo (s : State) : (endReception s).txFifo = s.txFifo := rfl
@[simp] theorem endReception_rxFifo (s : State) : (endReception s).rxFifo = [] := rfl
@[simp] theorem endReception_ctlLeft (s : State) : (endReception s).ctlLeft = s.ctlLeft := rfl
@[simp] theorem endReception_ovrCnt (s : State) : (endReception s).ovrCnt = s.ovrCnt := rfl
@[simp] theorem endReception_misCnt (s : State) : (endReception s).misCnt = s.misCnt := rfl
@[simp] theorem endReception_misMask (s : State) : (endReception s).misMask = s.misMask := rfl
@[simp] theorem endReception_txBytes (s : State) : (endReception s).txBytes = s.txBytes := rfl
@[simp] theorem endReception_rxBytes (s : State) : (endReception s).rxBytes = s.rxBytes := rfl
@[simp] theorem endReception_diag (s : State) : (endReception s).diag = s.diag := rfl
@[simp] theorem endReception_wireOut (s : State) : (endReception s).wireOut = s.wireOut := rfl
@[simp] theorem endReception_live (s : State) : (endReception s).live = s.live := rfl
@[simp] theorem endReception_now (s : State) : (endReception s).now = s.now := rfl
@[simp] theorem endReception_timers (s : State) : (endReception s).timers = s.timers := rfl
@[simp] theorem endReception_tlist (s : State) : (endReception s).tlist = s.tlist := rfl
@[simp] theorem endReception_expq (s : State) : (endReception s).expq = s.expq := rfl
@[simp] theorem endReception_rdData (s : State) : (endReception s).rdData = s.rdData := rfl
@[simp] theorem endReception_popResult (s : State) : (endReception s).popResult = s.popResult := rfl
@[simp] theorem endReception_faulted (s : State) : (endReception s).faulted = s.faulted := rfl
@[simp] theorem endReception_fcode (s : State) : (endReception s).fcode = s.fcode := rfl
@[simp] theorem endReception_fop (s : State) : (endReception s).fop = s.fop := rfl
@[simp] theorem endReception_farg (s : State) : (endReception s).farg = s.farg := rfl

/-! ### Updates with cases, as one record update each -/

theorem enqueueTlist_eq (t : Nat) (s : State) :
    enqueueTlist t s = { s with tlist := if queued s t then s.tlist else s.tlist ++ [t] } := by
  unfold enqueueTlist
  split <;> rfl

theorem enqueueExpq_eq (t : Nat) (s : State) :
    enqueueExpq t s = { s with expq := if queued s t then s.expq else s.expq ++ [t] } := by
  unfold enqueueExpq
  split <;> rfl

theorem noteOverrun_eq (s : State) :
    noteOverrun s = { s with
      ovrCnt := if s.pendTx || s.pendRx then s.ovrCnt + 1 else s.ovrCnt
      diag := if s.pendTx || s.pendRx then s.diag ++ [.overrun] else s.diag } := by
  unfold noteOverrun
  split <;> rfl

theorem armTransfer_eq (s : State) :
    armTransfer s = { s with
      ovrCnt := if s.pendTx || s.pendRx then s.ovrCnt + 1 else s.ovrCnt
      diag := if s.pendTx || s.pendRx then s.diag ++ [.overrun] else s.diag
      txCh := .run, txIdx := 0, pendTx := true
      rxCh := .run, rxIdx := 0, pendRx := true, rxEn := true } := by
  rw [armTransfer, noteOverrun_eq]
  rfl

theorem shiftIn_eq (p : Word) (s : State) :
    shiftIn p s = { s with
      rxFifo :=
        if s.rxEn && decide (s.rxFifo.length < s.cfg.rxFifoDepth) then s.rxFifo ++ [p]
        else s.rxFifo } := by
  unfold shiftIn
  split <;> rfl

theorem countWord_eq (s : State) :
    countWord s = { s with
      ctlLeft := if s.cfg.role = .controller then s.ctlLeft - 1 else s.ctlLeft } := by
  unfold countWord
  split <;> rename_i h <;> simp [h]

theorem recordCheck_eq (k : Nat) (ok : Bool) (s : State) :
    recordCheck k ok s = { s with
      misMask := if ok then s.misMask &&& ~~~((1 : U32) <<< k) else s.misMask ||| ((1 : U32) <<< k)
      misCnt := if ok then s.misCnt else s.misCnt + 1
      diag := if ok then s.diag else s.diag ++ [.crcMismatch k] } := by
  unfold recordCheck
  split <;> rfl

theorem armIdle_eq (t : Nat) (s : State) :
    armIdle t s = { s with
      timers :=
        if (slotAt s t).st = .idle then s.timers.set t { slotAt s t with st := .armed } else s.timers
      tlist :=
        if (slotAt s t).st = .idle ∧ queued s t = false then s.tlist ++ [t] else s.tlist } := by
  unfold armIdle
  split <;> rename_i h
  · rw [enqueueTlist_eq]
    cases hq : queued s t <;> simp [slotSet, h]
  · simp [h]
  · simp [h]

/-- The walk's work on one timer changes its slot and the two lists only. -/
theorem tickSlot_frame (s : State) (t : Nat) :
    tickSlot s t = { s with
      timers := (tickSlot s t).timers
      tlist := (tickSlot s t).tlist
      expq := (tickSlot s t).expq } := by
  unfold tickSlot
  split
  · rfl
  · split
    · rw [enqueueExpq_eq]
      rfl
    · rfl

/-- What CS.ISR makes of the level it reads changes only what ArmTransfer and CloseFrame write. -/
theorem csEdge_eq (s : State) :
    csEdge s =
      if s.csPin = s.lastLevel then s
      else if s.csPin then closeFrame { s with lastLevel := s.csPin }
      else armTransfer { s with lastLevel := s.csPin } := rfl

end Sys2Proof.Machine
end

