-- ==== Sys2Proof/Tests/Slice0.lean ====
section
/-! SUPPORT. The model's tests and the witnesses of the obligations. Expected values are those of
95_test_vectors.md, of the worked examples of the rules named, or worked out by hand from them. -/

namespace Sys2Proof.Tests

/- Each kernel evaluation below would wait in a thread of its own for the ones before it. -/
set_option Elab.async false

open Sys2Proof Sys2Proof.Machine

/-! ### Small states -/

/-- What `f` sees of the next state; `none` where there is none. -/
def got {α : Type} (o : Out) (f : State → α) : Option α :=
  match o with
  | .next s => some (f s)
  | .fault _ => none
  | .refused _ => none

/-- The step is refused as not enabled. -/
def notEnabled (o : Out) : Bool :=
  match o with
  | .next _ => false
  | .fault _ => false
  | .refused r => decide (r = .notEnabled)

/-- The latch: FAULTED, FCODE, FOP and FARG. -/
def latch (s : State) : Bool × Byte × Byte × Word := (s.faulted, s.fcode, s.fop, s.farg)

/-- The configuration of the vectors: W = 1, C = 4, so BUF_WORDS = 8 and N = 3. -/
def smallConfig : Config := { Config.standard with workers := 1, chunk := 4, xferLen := 4, rxBase := 4 }

/-- The same in the controller role. -/
def controllerConfig : Config := { smallConfig with role := .controller }

/-- A worker after reset. -/
def fresh : State := State.resetWith smallConfig

/-- A controller after reset. -/
def freshController : State := State.resetWith controllerConfig

/-- Chunk 0 as step 5 of P1 leaves it. -/
def chunk0 : Memory := [(0, 0xFA42), (1, 1), (2, 2), (3, 3)]

/-- A worker with its table built and chunk 0 stamped. -/
def ready : State := { fresh with tableValid := true, buf := chunk0 }

/-- A controller with its table built and chunk 0 stamped. -/
def readyController : State := { freshController with tableValid := true, buf := chunk0 }

/-- A worker that has been selected and has not run its handler (V-FX-01). -/
def selected : State := { ready with csPin := false, csIrq := true }

/-- A worker with its transfer armed (V-FX-02). -/
def armed : State :=
  { ready with
    csPin := false, lastLevel := false, txCh := .run, pendTx := true
    rxCh := .run, pendRx := true, rxEn := true }

/-- A worker whose receive channel has stored the peer's frame of P3. -/
def receivedFrame : State :=
  { armed with
    buf := chunk0 ++ [(4, 0x24E2), (5, 10), (6, 20), (7, 30)], rxCh := .done, rxIdx := 4
    txCh := .done, txIdx := 4 }

/-- The same with the header of V-FX-16. -/
def receivedBadFrame : State :=
  { receivedFrame with buf := chunk0 ++ [(4, 0x34C3), (5, 10), (6, 20), (7, 30)] }

/-- TLIST = [2, 0, 1] with REM = 100, 300, 50 for slots 2, 0, 1 (V-TMR-13). -/
def running : State :=
  { fresh with
    tlist := [2, 0, 1]
    timers := [⟨.armed, some 300, some 300⟩, ⟨.armed, some 50, some 150⟩,
      ⟨.armed, some 100, some 100⟩, Slot.unused] }

/-- Slots 2 and 1 fired in that order, slot 0 still armed (after V-TMR-13). -/
def fired : State :=
  { fresh with
    tlist := [0], expq := [2, 1]
    timers := [⟨.armed, some 200, some 300⟩, ⟨.fired, some 0, some 150⟩,
      ⟨.fired, some 0, some 100⟩, Slot.unused] }

/-- A block with BUFFER_RACE latched (V-FX-03). -/
def stuck : State := latched 0x08 0x30 1 armed

/-! ### Well-formedness: what R78 refuses -/

theorem test_wf_computeAddress : (Instr.crcCompute 0x10000 0).wf = false := by decide
theorem test_wf_computeCount : (Instr.crcCompute 0 0x100000000).wf = false := by decide
theorem test_wf_stamp : (Instr.crcStamp 0x10000).wf = false := by decide
theorem test_wf_check : (Instr.crcCheck 0x10000).wf = false := by decide
theorem test_wf_start : (Instr.tmrStart 0x10000 100).wf = false := by decide
theorem test_wf_stop : (Instr.tmrStop 0x10000).wf = false := by decide
theorem test_wf_restart : (Instr.tmrRestart 0x10000).wf = false := by decide
theorem test_wf_bufWrite : (Instr.bufWrite 0x10000 0).wf = false := by decide
theorem test_wf_bufRead : (Instr.bufRead 0x10000).wf = false := by decide
theorem test_wf_regRead : (Instr.regRead 0x100000000).wf = false := by decide

/-! ### Decoding: V-ENC-01 to V-ENC-20, and the labels of P3 and R77 -/

theorem test_decode_nop : decode 0x0000000000000000 = .instr .nop := by decide +kernel
theorem test_decode_crcInit : decode 0x0100000000000000 = .instr .crcInit := by decide +kernel
theorem test_decode_crcCompute : decode 0x0200010000000003 = .instr (.crcCompute 1 3) := by
  decide +kernel
theorem test_decode_crcStamp : decode 0x0300010000000000 = .instr (.crcStamp 1) := by decide +kernel
theorem test_decode_crcCheck : decode 0x0400010000000000 = .instr (.crcCheck 1) := by decide +kernel
theorem test_decode_fxRefresh : decode 0x1000000000000000 = .instr .fxRefresh := by decide +kernel
theorem test_decode_fxTrigger : decode 0x1100000000000000 = .instr .fxTrigger := by decide +kernel
theorem test_decode_tmrStart : decode 0x20000200000000FA = .instr (.tmrStart 2 250) := by
  decide +kernel
theorem test_decode_tmrStop : decode 0x2100020000000000 = .instr (.tmrStop 2) := by decide +kernel
theorem test_decode_tmrRestart : decode 0x2200020000000000 = .instr (.tmrRestart 2) := by
  decide +kernel
theorem test_decode_tmrPop : decode 0x2300000000000000 = .instr .tmrPop := by decide +kernel
theorem test_decode_bufWrite : decode 0x3000410000001234 = .instr (.bufWrite 0x41 0x1234) := by
  decide +kernel
theorem test_decode_bufRead : decode 0x3100410000000000 = .instr (.bufRead 0x41) := by
  decide +kernel
theorem test_decode_tick : decode 0x8000000000000000 = .instr .tick := by decide +kernel
theorem test_decode_csPin : decode 0x8100000000000001 = .instr (.csPin true) ∧
    decode 0x8100000000000000 = .instr (.csPin false) := by decide +kernel
theorem test_decode_csGlitch : decode 0x8200000000000000 = .instr .csGlitch := by decide +kernel
theorem test_decode_csIsr : decode 0x8300000000000000 = .instr .csIsr := by decide +kernel
theorem test_decode_linkWord : decode 0x84000000000024E2 = .instr (.linkWord 0x24E2) := by
  decide +kernel
theorem test_decode_dmaTxStep : decode 0x8500000000000000 = .instr .dmaTxStep := by decide +kernel
theorem test_decode_dmaRxStep : decode 0x8600000000000000 = .instr .dmaRxStep := by decide +kernel
theorem test_decode_dmaTxIsr : decode 0x8700000000000000 = .instr .dmaTxIsr := by decide +kernel
theorem test_decode_dmaRxIsr : decode 0x8800000000000000 = .instr .dmaRxIsr := by decide +kernel
theorem test_decode_regRead : decode 0x9000000000000002 = .instr (.regRead 2) := by decide +kernel

/-- V-ENC-14: the largest operands. -/
theorem test_decode_maxOperands :
    decode 0x20FFFF00FFFFFFFF = .instr (.tmrStart 0xFFFF 0xFFFFFFFF) := by decide +kernel

/-- V-ENC-15, V-ENC-17 to V-ENC-19, V-CRC-30. -/
theorem test_decode_rejects :
    decode 0x0500000000000000 = .illegalOpcode ∧ decode 0x0000000100000000 = .reservedField ∧
    decode 0x3000010000010000 = .reservedField ∧ decode 0x2300010000000000 = .reservedField ∧
    decode 0x0300000000000001 = .reservedField ∧ decode 0x8100000000000002 = .reservedField := by
  decide +kernel

/-- R80: the words of its three examples. -/
theorem test_encode_examples :
    encode (.tmrStart 2 250) = 0x20000200000000FA ∧
    encode (.bufWrite 0x41 0x1234) = 0x3000410000001234 ∧
    encode (.crcCompute 1 3) = 0x0200010000000003 := by decide +kernel

/-- A table row's word whose operand bits are left out reads as zeros there. -/
theorem test_decodeTableWord :
    decodeTableWord 64 0x20000200000000FA = some (.tmrStart 2 250) ∧
    decodeTableWord 32 0x20000200000000FA = none ∧ decodeTableWord 32 0 = some .nop := by
  decide +kernel

/-! ### The port -/

/-- V-ENC-16: a label's OP on the command port. -/
theorem test_port_labelIsNoCommand :
    got (takeCommand 0x8000000000000000 fresh) latch = some (true, 0x01, 0x80, 0) := by
  decide +kernel

/-- V-CRC-30. -/
theorem test_port_reservedField :
    got (takeCommand 0x0300000000000001 ready) latch = some (true, 0x02, 0x03, 0) := by
  decide +kernel

/-- The word placed for fetching is what the next step runs. -/
theorem test_withFetchWord :
    got (step (State.reset.withFetchWord 64 0x0100000000000000)) (fun s => (s.tableValid, s.inputs)) =
      some (true, []) := by decide +kernel

/-- R261: an external reset clears a latched fault and the table. -/
theorem test_reset :
    got (step { stuck with inputs := [.reset] }) (fun s => (s.faulted, s.tableValid, s.txCh)) =
      some (false, false, .idle) := by decide +kernel

/-- L1-1: pointers for W = 2, C = 32 in the worker role. -/
theorem test_layout_worker :
    measPtr Config.standard 1 = 32 ∧ setPtr Config.standard 0 = 64 ∧
    setPtr Config.standard 1 = 96 ∧ ownedChunks { Config.standard with workerId := 1 } = [1] := by
  decide +kernel

/-! ### CRC -/

/-- R113: entries of the table. -/
theorem test_crcTable :
    crcTable 0x00 = 0x0000 ∧ crcTable 0x01 = 0x1021 ∧ crcTable 0x10 = 0x1231 ∧
    crcTable 0x7F = 0x8F78 ∧ crcTable 0x80 = 0x9188 ∧ crcTable 0xE0 = 0xFD2E ∧
    crcTable 0xFF = 0x1EF0 := by decide +kernel

/-- V-CRC-02 to V-CRC-07 and V-CRC-10. -/
theorem test_crcWords :
    crcWords [] = 0xFFFF ∧ crcWords [0x0000] = 0x1D0F ∧ crcWords [0xFFFF] = 0x0000 ∧
    crcWords [0x0001] = 0x0D2E ∧ crcWords [0x0100] = 0x2E3E ∧ crcWords [0x1234] = 0x0EC9 ∧
    crcWords [0x3132, 0x3334, 0x3536, 0x3738] = 0xA12B ∧ crcWords [1, 2, 3] = 0xFA42 := by
  decide +kernel

/-- V-CRC-01: byte steps of the check string. -/
theorem test_crcByte :
    ([0x31, 0x32, 0x33, 0x34, 0x35, 0x36, 0x37, 0x38, 0x39] : List Byte).foldl crcByte 0xFFFF =
      0x29B1 := by decide +kernel

/-- V-CRC-21: an empty range at the end of the buffer is legal. -/
theorem test_crcCompute_emptyAtEnd :
    got (execCrcCompute 8 0 ready) (·.crcResult) = some (some 0xFFFF) := by decide +kernel

/-- V-CRC-22. -/
theorem test_crcCompute_range :
    got (execCrcCompute 6 3 ready) latch = some (true, 0x04, 0x02, 6) := by decide +kernel

/-- V-CRC-25. -/
theorem test_crcStamp :
    got (execCrcStamp 0 { ready with buf := [(1, 1), (2, 2), (3, 3)] })
      (fun s => (s.buf, s.crcResult)) = some (chunk0, some 0xFA42) := by decide +kernel

/-- V-CRC-28: a chunk without payload. -/
theorem test_crcStamp_emptyPayload :
    got (execCrcStamp 1 { State.resetWith { smallConfig with chunk := 1, xferLen := 1, rxBase := 1 }
      with tableValid := true }) (·.buf) = some [(1, 0xFFFF)] := by decide +kernel

/-- V-CRC-26. -/
theorem test_crcCheck_match :
    got (execCrcCheck 0 ready) (fun s => (s.crcResult, s.crcMatch, s.misCnt)) =
      some (some 0xFA42, some true, 0) := by decide +kernel

/-- P1 step 8. -/
theorem test_crcCheck_mismatch :
    got (execCrcCheck 0 { ready with buf := [(0, 0xFA42), (1, 0), (2, 2), (3, 3)] })
      (fun s => (s.crcResult, s.crcMatch)) = some (some 0x5013, some false) := by decide +kernel

/-- V-CRC-29 and R83: CRC.INIT twice, and NOP. -/
theorem test_crcInit_nop :
    got (execCrcInit ready) id = some ready ∧ got (execNop ready) id = some ready := by
  decide +kernel

/-! ### Frame exchange -/

/-- V-FX-01. -/
theorem test_csPin :
    got (execCsPin false fresh) (fun s => (s.csPin, s.csIrq, s.txCh, window s)) =
      some (false, true, .idle, false) := by decide +kernel

/-- V-FX-12: no chip select in the controller role. -/
theorem test_csPin_controller : notEnabled (execCsPin false freshController) = true := by
  decide +kernel

/-- L1-5 row 1: noise at an unchanged level. -/
theorem test_csGlitch : got (execCsGlitch fresh) (fun s => (s.csIrq, s.csPin)) = some (true, true) := by
  decide +kernel

/-- V-FX-02. -/
theorem test_csIsr_arms :
    got (execCsIsr selected)
      (fun s => ([s.lastLevel, s.pendTx, s.pendRx, s.rxEn, window s], s.txCh, s.rxCh, s.ovrCnt)) =
      some ([false, true, true, true, true], .run, .run, 0) := by decide +kernel

/-- P3 step 23: the frame is closed with 8 and 8 bytes. -/
theorem test_csIsr_closes :
    got (execCsIsr { receivedFrame with csPin := true, csIrq := true })
      (fun s => (s.txBytes, s.rxBytes, s.diag, s.lastLevel)) =
      some (8, 8, [.frameClosed 8 8], true) := by decide +kernel

/-- V-FX-07. -/
theorem test_fxTrigger :
    got (execFxTrigger freshController) (fun s => (s.txCh, s.pendRx, s.ctlLeft, window s)) =
      some (.run, true, 4, true) := by decide +kernel

/-- V-FX-06. -/
theorem test_fxTrigger_worker :
    got (execFxTrigger fresh) latch = some (true, 0x09, 0x11, 0) := by decide +kernel

/-- V-FX-08, third word: TXFIFO is empty, RXFIFO full. -/
theorem test_linkWord_underrunAndFull :
    got (execLinkWord 0x1111 { freshController with
        rxEn := true, ctlLeft := 2, rxFifo := [0x1111, 0x1111], wireOut := [none, none] })
      (fun s => (s.wireOut, s.rxFifo, s.ctlLeft)) =
      some ([none, none, none], [0x1111, 0x1111], 1) := by decide +kernel

/-- P3 step 10. -/
theorem test_linkWord :
    got (execLinkWord 0x24E2 { armed with txFifo := [some 0xFA42, some 1] })
      (fun s => (s.wireOut, s.txFifo, s.rxFifo)) =
      some ([some 0xFA42], [some 1], [0x24E2]) := by decide +kernel

/-- V-FX-13: the last word. -/
theorem test_dmaTxStep_last :
    got (execDmaTxStep { armed with txIdx := 3 }) (fun s => (s.txFifo, s.txIdx, s.txCh)) =
      some ([some 3], 4, .done) := by decide +kernel

/-- P3 step 11. -/
theorem test_dmaRxStep :
    got (execDmaRxStep { armed with rxFifo := [0x24E2, 7] })
      (fun s => (bufGet s 4, s.rxFifo, s.rxIdx, s.rxCh)) = some (some 0x24E2, [7], 1, .run) := by
  decide +kernel

/-- V-FX-14. -/
theorem test_dmaTxIsr :
    got (execDmaTxIsr receivedFrame) (fun s => (s.pendTx, s.txCh)) = some (false, .idle) := by
  decide +kernel

/-- P3 step 21. -/
theorem test_dmaRxIsr_match :
    got (execDmaRxIsr receivedFrame) (fun s => (s.pendRx, s.rxCh, s.rxEn, s.misMask, s.misCnt)) =
      some (false, .idle, false, 0, 0) := by decide +kernel

/-- V-FX-16. -/
theorem test_dmaRxIsr_mismatch :
    got (execDmaRxIsr { receivedBadFrame with rxFifo := [1] })
      (fun s => (s.misMask, s.misCnt, s.diag, s.rxFifo)) =
      some (1, 1, [.crcMismatch 0], []) := by decide +kernel

/-- V-FX-17. -/
theorem test_fxRefresh :
    got (execFxRefresh { ready with buf := [(1, 1), (2, 2), (3, 3)] })
      (fun s => (s.buf, s.live, s.crcResult)) = some (chunk0, true, none) := by decide +kernel

/-- V-FX-18. -/
theorem test_fxRefresh_race :
    got (execFxRefresh armed) latch = some (true, 0x08, 0x10, 0) := by decide +kernel

/-- V-FX-03. -/
theorem test_bufWrite_race : got (execBufWrite 1 5 armed) id = some stuck := by decide +kernel

/-- P1 step 2, into an empty buffer and over a written word. -/
theorem test_bufWrite :
    got (execBufWrite 1 1 fresh) (·.buf) = some [(1, 1)] ∧
    got (execBufWrite 2 9 ready) (·.buf) = some [(0, 0xFA42), (1, 1), (2, 9), (3, 3)] := by
  decide +kernel

/-- V-FX-04: the transmit region may be read while it is sent. -/
theorem test_bufRead_txRegion : got (execBufRead 1 armed) (·.rdData) = some (some 1) := by
  decide +kernel

/-- V-FX-05. -/
theorem test_bufRead_race : got (execBufRead 4 armed) latch = some (true, 0x08, 0x31, 4) := by
  decide +kernel

/-! ### Timers -/

/-- V-TMR-01. -/
theorem test_tmrStart :
    got (execTmrStart 0 100 fresh) (fun s => (slotAt s 0, s.tlist)) =
      some (⟨.armed, some 100, some 100⟩, [0]) := by decide +kernel

/-- V-TMR-10: a fired timer started again stays fired. -/
theorem test_tmrStart_fired :
    got (execTmrStart 2 300 fired) (fun s => (slotAt s 2, s.tlist, s.expq)) =
      some (⟨.fired, some 300, some 300⟩, [0], [2, 1]) := by decide +kernel

/-- V-TMR-13. -/
theorem test_tick :
    got (execTick running) id = some { fired with now := 100 } := by decide +kernel

/-- V-TMR-14: NOW wraps. -/
theorem test_tick_wraps :
    got (execTick { State.resetWith { smallConfig with gran := 1 } with now := 0xFFFFFFFF }) (·.now) =
      some 0 := by decide +kernel

/-- V-TMR-08: REM is kept. -/
theorem test_tmrStop :
    got (execTmrStop 0 running) (fun s => (s.tlist, slotAt s 0)) =
      some ([2, 1], ⟨.idle, some 300, some 300⟩) := by decide +kernel

/-- V-TMR-09: a fired timer is not recalled. -/
theorem test_tmrStop_fired : got (execTmrStop 2 fired) id = some fired := by decide +kernel

/-- P2 step 9: an idle timer reloads and is armed. -/
theorem test_tmrRestart :
    got (execTmrRestart 0 { fresh with timers := ⟨.idle, some 0, some 100⟩ :: fresh.timers.tail })
      (fun s => (slotAt s 0, s.tlist)) = some (⟨.armed, some 100, some 100⟩, [0]) := by decide +kernel

/-- V-TMR-06. -/
theorem test_tmrRestart_unwritten :
    got (execTmrRestart 1 fresh) latch = some (true, 0x07, 0x22, 1) := by decide +kernel

/-- P2 step 8: the first to fire is the first out. -/
theorem test_tmrPop :
    got (execTmrPop fired) (fun s => (s.popResult, s.expq, (slotAt s 2).st)) =
      some (some 2, [1], .idle) := by decide +kernel

/-- V-TMR-12. -/
theorem test_tmrPop_empty : got (execTmrPop fresh) (·.popResult) = some (some 0xFFFFFFFF) := by
  decide +kernel

/-! ### Registers -/

/-- V-REG-01, V-REG-02, V-REG-03 and V-REG-05. -/
theorem test_regRead :
    got (execRegRead 0x00 fresh) (·.readOut) = some (some 0x00002010) ∧
    got (execRegRead 0x09 fresh) (·.readOut) = some (some 0xFFFFFFFF) ∧
    got (execRegRead 0x0F fresh) (·.readOut) = some (some 0) ∧
    got (execRegRead 0x08 stuck) (·.readOut) = some (some 0x00013008) := by decide +kernel

/-- V-REG-04 and V-TMR-16. -/
theorem test_regRead_unwritten :
    got (execRegRead 0x01 fresh) latch = some (true, 0x07, 0x90, 0x0001) ∧
    got (execRegRead 0x11 fresh) latch = some (true, 0x07, 0x90, 0x0011) := by decide +kernel

/-! ### Assembler (R78, R80) -/

/-- R80's first example, with a comment. -/
theorem test_assemble :
    assembleLine ['T', 'M', 'R', '.', 'S', 'T', 'A', 'R', 'T', ' ', '2', ',', ' ', '2', '5', '0', ' ',
      ';', 'x'] = .ok (some (.tmrStart 2 250)) := by decide +kernel

/-- An operand that does not fit is refused, and a line with a comment alone holds nothing. -/
theorem test_assemble_refuses :
    assembleLine ['B', 'U', 'F', '.', 'W', 'R', 'I', 'T', 'E', ' ', '1', ',', '0', 'x', '1', '0', '0',
      '0', '0'] = .error .operandTooWide ∧
    assembleLine [' ', ';', 'N', 'O', 'P'] = .ok none := by decide +kernel

/-! ### Witnesses: each obligation's hypotheses are met, clause by clause -/

theorem witness_DecodeOfEncode_extremes :
    (Instr.crcCompute 0xFFFF 0xFFFFFFFF).wf = true ∧ (Instr.crcStamp 0xFFFF).wf = true ∧
    (Instr.tmrStart 0xFFFF 0xFFFFFFFF).wf = true ∧ (Instr.bufWrite 0xFFFF 0xFFFF).wf = true ∧
    (Instr.regRead 0xFFFFFFFF).wf = true ∧ (Instr.csPin true).wf = true := by decide

theorem witness_DecodedWord : decode 0x20FFFF00FFFFFFFF = .instr (.tmrStart 0xFFFF 0xFFFFFFFF) := by
  decide +kernel

theorem witness_UnknownOpcodes :
    configValid ready.cfg = true ∧ ready.faulted = false ∧
    opField 0x0500000000000000 ∉ commandZeroBits.map Prod.fst ∧
    opField 0x8000000000000000 ∉ commandZeroBits.map Prod.fst ∧
    opField 0xFFFFFFFFFFFFFFFF ∉ commandZeroBits.map Prod.fst := by decide +kernel

theorem witness_MustBeZeroBits :
    configValid ready.cfg = true ∧ ready.faulted = false ∧
    (opField 0x0000000100000000, (0x00FFFFFFFFFFFFFF : CmdWord)) ∈ commandZeroBits ∧
    (0x0000000100000000 : CmdWord) &&& 0x00FFFFFFFFFFFFFF ≠ 0 ∧
    (opField 0x3000010000010000, (0x000000FFFFFF0000 : CmdWord)) ∈ commandZeroBits ∧
    (0x3000010000010000 : CmdWord) &&& 0x000000FFFFFF0000 ≠ 0 ∧
    (opField 0x3000410000001234, (0x000000FFFFFF0000 : CmdWord)) ∈ commandZeroBits ∧
    (0x3000410000001234 : CmdWord) &&& 0x000000FFFFFF0000 = 0 := by decide +kernel

theorem witness_LabelsOutsideTheTable :
    configValid ready.cfg = true ∧
    opField 0x0000000000000000 ∉ labelZeroBits.map Prod.fst ∧
    opField 0x8900000000000000 ∉ labelZeroBits.map Prod.fst ∧
    (opField 0x8100000000000002, (0x00FFFFFFFFFFFFFE : CmdWord)) ∈ labelZeroBits ∧
    (0x8100000000000002 : CmdWord) &&& 0x00FFFFFFFFFFFFFE ≠ 0 := by decide +kernel

/-- A form with two operands, a word that is no mnemonic, and lists the form counts out. -/
theorem witness_AssembledInstructions_form :
    (⟨['C', 'R', 'C', '.', 'C', 'O', 'M', 'P', 'U', 'T', 'E'], 0x02, some 0x10000, some 0x100000000⟩ :
      AsmRow) ∈ asmRows ∧
    ['N', 'O'] ∉ asmRows.map AsmRow.mnemonic ∧ ([1, 2, 3] : List Nat).length ≠ 2 := by decide +kernel

/-- Its largest operands fit. -/
theorem witness_AssembledInstructions_fits :
    ∀ p ∈ [0xFFFF, 0xFFFFFFFF].zip [0x10000, 0x100000000], p.1 < p.2 := by simp

/-- A count of 2^32 does not. -/
theorem witness_AssembledInstructions_tooWide :
    ∃ p ∈ [0xFFFF, 0x100000000].zip [0x10000, 0x100000000], p.2 ≤ p.1 := by simp

/-- The line `CS.PIN 1` in its parts, and what it assembles to. -/
theorem witness_AssembledInstructions_line :
    trimBlanks (stripComment ['C', 'S', '.', 'P', 'I', 'N', ' ', '1']) =
      ['C', 'S', '.', 'P', 'I', 'N'] ++ [' ', '1'] ∧
    (asmForm ['C', 'S', '.', 'P', 'I', 'N']).isSome = true ∧
    parseNumbers (operandParts [' ', '1']) = .ok [1] ∧
    assembleLine ['C', 'S', '.', 'P', 'I', 'N', ' ', '1'] = .ok (some (.csPin true)) := by
  decide +kernel

/-- Its mnemonic holds no blank, and a blank follows it. -/
theorem witness_AssembledInstructions_blanks :
    (∀ c ∈ ['C', 'S', '.', 'P', 'I', 'N'], isBlank c = false) ∧
    (∀ c ∈ [' ', '1'].head?, isBlank c = true) := by simp [isBlank]

theorem witness_StepRuns :
    configValid ready.cfg = true ∧
    decode 0x0100000000000000 = .instr .crcInit ∧ isEvent .crcInit = false ∧
    decode 0x8000000000000000 = .instr .tick ∧ isEvent .tick = true := by decide +kernel

/-- R3 at its bounds: W = 32 and a full buffer are legal, W = 33, a longer transfer and G = 2^32 are not. -/
theorem witness_BadConfigurations :
    configValid { smallConfig with workers := 32, chunk := 1024, xferLen := 32768, rxBase := 32768 } =
      true ∧
    configValid { smallConfig with workers := 33 } = false ∧
    configValid { smallConfig with rxBase := 5 } = false ∧
    configValid { smallConfig with gran := 2 ^ 32 } = false ∧
    configValid { smallConfig with gran := 2 ^ 32 - 1 } = true := by decide +kernel

theorem witness_StepTakesOneStimulus :
    ∃ t, step { ready with inputs := [.label 0x8000000000000000] } = .next t := ⟨_, rfl⟩

theorem witness_ResetSetsEveryElement :
    configValid stuck.cfg = true ∧ ({ stuck with inputs := [.reset] } : State).inputs = [.reset] := by
  decide +kernel

theorem witness_ResetMeetsTheInvariants :
    configValid smallConfig = true ∧ configValid controllerConfig = true := by decide +kernel

/-- States for Inv, the premise of ModelStopsAreUnreachable and InternalStepsReachQuiescence. -/
theorem witness_inv_ready : Inv ready := inv_of_check (by decide +kernel)
theorem witness_inv_armed : Inv armed := inv_of_check (by decide +kernel)
theorem witness_inv_receivedFrame : Inv receivedFrame := inv_of_check (by decide +kernel)
theorem witness_inv_running : Inv running := inv_of_check (by decide +kernel)
theorem witness_inv_fired : Inv fired := inv_of_check (by decide +kernel)
theorem witness_inv_stuck : Inv stuck := inv_of_check (by decide +kernel)

theorem witness_TimerInvariantIsKept :
    TimerInv running ∧
    ∃ t, step { running with inputs := [.label 0x8000000000000000] } = .next t :=
  ⟨witness_inv_running.timer, _, rfl⟩

theorem witness_TransferInvariantIsKept :
    TransferInv armed ∧ ∃ t, step { armed with inputs := [.label 0x8500000000000000] } = .next t :=
  ⟨witness_inv_armed.transfer, _, rfl⟩

theorem witness_BufferStaysCanonical :
    BufferInv ready ∧ ∃ t, step { ready with inputs := [.command 0x3000020000000009] } = .next t :=
  ⟨witness_inv_ready.buffer, _, rfl⟩

theorem witness_CountersAndLatch :
    DiagInv ready ∧ LatchInv ready ∧
    ∃ t, step { ready with inputs := [.command 0x0500000000000000] } = .next t :=
  ⟨witness_inv_ready.diag, witness_inv_ready.latch, _, rfl⟩

theorem witness_FaultsArePrecise :
    ready.faulted = false ∧ (∃ t, exec (.bufRead 8) ready = .next t ∧ t.faulted = true) ∧
    ∃ t, exec (.regRead 1) ready = .next t ∧ t.faulted = true :=
  ⟨rfl, ⟨_, rfl, rfl⟩, ⟨_, rfl, rfl⟩⟩

theorem witness_FaultedBlockIsStuck :
    configValid stuck.cfg = true ∧ stuck.faulted = true ∧
    decode 0x8000000000000000 = .instr .tick ∧ isEvent .tick = true := by decide +kernel

theorem witness_OnlyResetLeavesAFault :
    stuck.faulted = true ∧ (∃ t, step { stuck with inputs := [.command 0] } = .next t) ∧
    ∃ t, step { stuck with inputs := [.reset] } = .next t := ⟨rfl, ⟨_, rfl⟩, ⟨_, rfl⟩⟩

theorem witness_EverySingleBitFlip :
    2 < ([1, 2, 3] : List Word).length ∧ crcWords [1, 2, 3] = 0xFA42 := by decide +kernel

theorem witness_NopAndCrcInit : fresh.faulted = false := rfl

theorem witness_CrcComputeSetsTheResult :
    armed.faulted = false ∧ 0 + 4 ≤ bufWords armed.cfg ∧ armed.tableValid = true ∧
    ∀ x ∈ spanAddrs 0 4, Readable armed x := by decide +kernel

/-- The three clauses: past the end by one word, table not built, first failing word by race (word 4 of an
armed block) and by being unwritten (word 4 of a block at rest). -/
theorem witness_CrcComputeFaultsInOrder :
    bufWords ready.cfg < 6 + 3 ∧ (8 + 0 ≤ bufWords fresh.cfg ∧ fresh.tableValid = false) ∧
    FirstFailing (Readable armed) (spanAddrs 3 3) 4 ∧
    FirstFailing (Readable ready) (spanAddrs 3 3) 4 ∧ readFault armed 4 = 0x08 ∧
    readFault ready 4 = 0x07 :=
  ⟨by decide, by decide, ⟨[3], [5], by decide +kernel⟩, ⟨[3], [5], by decide +kernel⟩,
    by decide +kernel, by decide +kernel⟩

/-- For CrcStampWritesTheHeader and CrcCheckComparesTheHeader. -/
theorem witness_CrcStampAndCheck :
    configValid ready.cfg = true ∧ ready.faulted = false ∧ 0 < 2 * ready.cfg.workers ∧
    ready.tableValid = true ∧ (∀ x ∈ payloadAddrs ready.cfg 0, Readable ready x) ∧
    writeRace ready (headerAddr ready.cfg 0) = false ∧ Readable ready (headerAddr ready.cfg 0) := by
  decide +kernel

/-- The clauses: chunk 2 is out of range, chunk 1 the last; no table; chunk 1's first payload word; the race
on the header of chunk 0 in an open window. -/
theorem witness_CrcStampAndCheckFault :
    (2 * ready.cfg.workers ≤ 2 ∧ 1 < 2 * ready.cfg.workers) ∧ fresh.tableValid = false ∧
    FirstFailing (Readable ready) (payloadAddrs ready.cfg 1) 5 ∧
    FirstFailing (Readable ready) (payloadAddrs ready.cfg 1 ++ [headerAddr ready.cfg 1]) 5 ∧
    ((∀ x ∈ payloadAddrs armed.cfg 0, Readable armed x) ∧
      writeRace armed (headerAddr armed.cfg 0) = true) :=
  ⟨by decide, rfl, ⟨[], [6, 7], by decide +kernel⟩, ⟨[], [6, 7, 4], by decide +kernel⟩,
    by decide +kernel⟩

theorem witness_StampedChunk :
    configValid ready.cfg = true ∧ ∃ t, exec (.crcStamp 0) ready = .next t ∧ t.faulted = false :=
  ⟨by decide +kernel, _, rfl, by decide +kernel⟩

theorem witness_ChipSelectNotifications :
    (fresh.faulted = false ∧ fresh.cfg.role = .worker ∧ false ≠ fresh.csPin) ∧
    ¬ (fresh.cfg.role = .worker ∧ true ≠ fresh.csPin) ∧
    (freshController.faulted = false ∧ freshController.cfg.role ≠ .worker) := by decide +kernel

/-- An unchanged level, a falling edge with and without an overrun, a rising edge, and no interrupt. -/
theorem witness_ChipSelectHandler :
    (selected.faulted = false ∧ selected.cfg.role = .worker ∧ selected.csIrq = true ∧
      selected.csPin = false ∧ selected.lastLevel = true) ∧
    (∃ s : State, s.faulted = false ∧ s.cfg.role = .worker ∧ s.csIrq = true ∧ s.csPin = s.lastLevel) ∧
    (∃ s : State, s.faulted = false ∧ s.cfg.role = .worker ∧ s.csIrq = true ∧ s.csPin = false ∧
      s.lastLevel = true ∧ s.pendTx = true) ∧
    (∃ s : State, s.faulted = false ∧ s.cfg.role = .worker ∧ s.csIrq = true ∧ s.csPin = true ∧
      s.lastLevel = false) ∧
    ¬ (fresh.cfg.role = .worker ∧ fresh.csIrq = true) :=
  ⟨by decide, ⟨{ fresh with csIrq := true }, by decide⟩, ⟨{ selected with pendTx := true }, by decide⟩,
    ⟨{ receivedFrame with csPin := true, csIrq := true }, by decide⟩, by decide⟩

theorem witness_NoiseAndMissedPulses :
    fresh.faulted = false ∧ fresh.cfg.role = .worker ∧ fresh.csPin = fresh.lastLevel := by decide

/-- For TriggerArmsTheControllerOrFaults: a controller, a worker. -/
theorem witness_Trigger :
    (freshController.faulted = false ∧ freshController.cfg.role = .controller) ∧
    (fresh.faulted = false ∧ fresh.cfg.role = .worker) := by decide

/-- Active in each role, and active in neither. -/
theorem witness_LinkWord :
    (armed.faulted = false ∧ armed.cfg.role = .worker ∧ armed.csPin = false) ∧
    (∃ s : State, s.faulted = false ∧ s.cfg.role = .controller ∧ 0 < s.ctlLeft.toNat) ∧
    ¬ ((fresh.cfg.role = .worker ∧ fresh.csPin = false) ∨
      (fresh.cfg.role = .controller ∧ 0 < fresh.ctlLeft.toNat)) :=
  ⟨by decide, ⟨{ freshController with ctlLeft := 1 }, by decide⟩, by decide⟩

/-- A word in the middle and the last one, an idle and a full channel, and a channel that is done. -/
theorem witness_TransmitChannel :
    configValid armed.cfg = true ∧ armed.faulted = false ∧ armed.txCh = .run ∧
    armed.txFifo.length < armed.cfg.txFifoDepth ∧ armed.txIdx.toNat < armed.cfg.xferLen ∧
    (∃ s : State, s.txCh = .run ∧ s.txFifo.length < s.cfg.txFifoDepth ∧
      s.txIdx.toNat + 1 = s.cfg.xferLen) ∧
    fresh.txCh ≠ .run ∧ (∃ s : State, s.txCh = .run ∧ s.cfg.txFifoDepth ≤ s.txFifo.length) ∧
    receivedFrame.txCh = .done := by
  refine ⟨by decide +kernel, by decide, by decide, by decide, by decide,
    ⟨{ armed with txIdx := 3 }, by decide⟩, by decide,
    ⟨{ armed with txFifo := [none, some 1] }, by decide⟩, by decide⟩

/-- A word in the middle and the last one, and a channel that is not enabled. -/
theorem witness_ReceiveChannel :
    configValid armed.cfg = true ∧ armed.faulted = false ∧
    (∃ s : State, s.rxCh = .run ∧ s.rxFifo = [7] ∧ s.rxIdx.toNat < s.cfg.xferLen) ∧
    (∃ s : State, s.rxCh = .run ∧ s.rxFifo = [7, 8] ∧ s.rxIdx.toNat + 1 = s.cfg.xferLen) ∧
    fresh.rxCh ≠ .run ∧ armed.rxFifo = [] :=
  ⟨by decide +kernel, by decide, ⟨{ armed with rxFifo := [7] }, by decide⟩,
    ⟨{ armed with rxFifo := [7, 8], rxIdx := 3 }, by decide⟩, by decide, by decide⟩

theorem witness_ReceiveHandlerVerifies :
    configValid receivedBadFrame.cfg = true ∧ receivedBadFrame.faulted = false ∧
    receivedBadFrame.rxCh = .done ∧ receivedBadFrame.tableValid = true ∧
    (∀ k < receivedBadFrame.cfg.workers, ∀ x ∈
      payloadAddrs receivedBadFrame.cfg (receivedChunk receivedBadFrame.cfg k) ++
        [headerAddr receivedBadFrame.cfg (receivedChunk receivedBadFrame.cfg k)],
      Written receivedBadFrame x) ∧
    chunkMatches receivedBadFrame 1 = false ∧ chunkMatches receivedFrame 1 = true ∧
    fresh.rxCh ≠ .done := by decide +kernel

theorem witness_ReceiveHandlerFaults :
    (∃ s : State, configValid s.cfg = true ∧ s.faulted = false ∧ s.rxCh = .done ∧
      s.tableValid = false) ∧
    ∃ s : State, configValid s.cfg = true ∧ s.faulted = false ∧ s.rxCh = .done ∧
      s.tableValid = true ∧ FirstFailing (Written s) ((List.range s.cfg.workers).flatMap fun k =>
        payloadAddrs s.cfg (receivedChunk s.cfg k) ++ [headerAddr s.cfg (receivedChunk s.cfg k)]) 6 :=
  ⟨⟨{ receivedFrame with tableValid := false }, by decide +kernel⟩,
    ⟨{ receivedFrame with buf := chunk0 ++ [(4, 0x24E2), (5, 10), (7, 30)] },
      by decide +kernel, by decide, by decide, by decide, ⟨[5], [7, 4], by decide +kernel⟩⟩⟩

/-- In both roles; the owned chunk of a controller with W = 1 is chunk 0 too. -/
theorem witness_Refresh :
    configValid ready.cfg = true ∧ ready.faulted = false ∧ ready.tableValid = true ∧
    ((∀ x ∈ payloadAddrs ready.cfg 0, Readable ready x) ∧
      writeRace ready (headerAddr ready.cfg 0) = false) ∧
    ((∀ x ∈ payloadAddrs readyController.cfg 0, Readable readyController x) ∧
      writeRace readyController (headerAddr readyController.cfg 0) = false) := by decide +kernel

/-- The table not built; the only owned chunk unreadable; its header in the open window; and a second owned
chunk that fails after a first that does not. -/
theorem witness_RefreshFaults :
    fresh.tableValid = false ∧
    (∃ s : State, configValid s.cfg = true ∧ s.faulted = false ∧ s.tableValid = true ∧
      FirstFailing (Readable s) (payloadAddrs s.cfg 0) 1) ∧
    ((∀ x ∈ payloadAddrs armed.cfg 0, Readable armed x) ∧
      writeRace armed (headerAddr armed.cfg 0) = true) ∧
    ∃ s : State, configValid s.cfg = true ∧ s.faulted = false ∧ s.tableValid = true ∧
      List.range s.cfg.workers = [0] ++ 1 :: [] ∧
      ((∀ x ∈ payloadAddrs s.cfg 0, Readable s x) ∧ writeRace s (headerAddr s.cfg 0) = false) ∧
      FirstFailing (Readable s) (payloadAddrs s.cfg 1) 5 :=
  ⟨rfl, ⟨{ ready with buf := [] }, by decide +kernel, by decide, by decide,
      ⟨[], [2, 3], by decide +kernel⟩⟩, by decide +kernel,
    ⟨{ readyController with cfg := { controllerConfig with workers := 2 } },
      by decide +kernel, by decide, by decide, by decide, by decide +kernel,
      ⟨[], [6, 7], by decide +kernel⟩⟩⟩

/-- Word 7 is the last, word 8 is outside. -/
theorem witness_BufferWrite :
    ready.faulted = false ∧ bufWords ready.cfg ≤ 8 ∧ (7 < bufWords armed.cfg ∧ writeRace armed 7 = true) ∧
    (7 < bufWords ready.cfg ∧ writeRace ready 7 = false) := by decide +kernel

theorem witness_BufferRead :
    bufWords ready.cfg ≤ 8 ∧ (7 < bufWords armed.cfg ∧ readRace armed 7 = true) ∧
    (7 < bufWords ready.cfg ∧ readRace ready 7 = false ∧ bufGet ready 7 = none) ∧
    (3 < bufWords ready.cfg ∧ readRace ready 3 = false ∧ bufGet ready 3 = some 3) := by decide +kernel

theorem witness_RolesRestrictSteps :
    freshController.cfg.role = .controller ∧ (∃ t, exec .fxTrigger freshController = .next t) ∧
    fresh.cfg.role = .worker ∧ fresh.ctlLeft = 0 ∧ (∃ t, exec .csGlitch fresh = .next t) ∧
    fresh.faulted = false := ⟨rfl, ⟨_, rfl⟩, rfl, rfl, ⟨_, rfl⟩, rfl⟩

theorem witness_MismatchNeverChanges :
    (∃ t, exec .dmaRxIsr receivedFrame = .next t ∧ t.faulted = false) ∧
    ∃ u, exec .dmaRxIsr { receivedFrame with buf := receivedBadFrame.buf } = .next u ∧
      u.faulted = false := ⟨⟨_, rfl, by decide +kernel⟩, ⟨_, rfl, by decide +kernel⟩⟩

theorem witness_ChunksTile :
    configValid smallConfig = true ∧ configValid controllerConfig = true ∧
    7 < bufWords smallConfig := by decide +kernel

theorem witness_NoCommandWrites :
    isEvent (.bufWrite 0 9) = false ∧ window armed = true ∧
    (∃ t, exec (.bufWrite 0 9) armed = .next t) ∧
    inTxr armed.cfg 0 = true ∧ inRxr armed.cfg 7 = true :=
  ⟨by decide, by decide, ⟨_, rfl⟩, by decide, by decide⟩

theorem witness_FrameMovesEveryWord :
    configValid selected.cfg = true ∧ selected.faulted = false ∧ selected.cfg.role = .worker ∧
    selected.csPin = false ∧ selected.lastLevel = true ∧ selected.csIrq = true ∧
    selected.txFifo = [] ∧ selected.rxFifo = [] ∧
    ([0x24E2, 10, 20, 30] : List Word).length = selected.cfg.xferLen := by decide +kernel

theorem witness_FrameMovesEveryWord_controller :
    configValid readyController.cfg = true ∧ readyController.faulted = false ∧
    readyController.cfg.role = .controller ∧ readyController.txFifo = [] ∧
    readyController.rxFifo = [] ∧
    ([0x24E2, 10, 20, 30] : List Word).length = readyController.cfg.xferLen := by decide +kernel

/-- After a trigger and two words, two of the four are left. -/
theorem witness_FrameMovesEveryWord_count :
    Instr.fxTrigger ∉ [.linkWord 1, .dmaTxStep, .linkWord 2] ∧
    [.linkWord 1, .dmaTxStep, .linkWord 2].countP isLinkWord = 2 ∧
    ∃ u, execAll [.fxTrigger, .linkWord 1, .dmaTxStep, .linkWord 2] readyController = some u ∧
      u.ctlLeft = 2 ∧ u.faulted = false :=
  ⟨by decide, by decide, _, rfl, by decide +kernel, by decide +kernel⟩

/-- The receive region one word above the transmit region: the second word sent is the first received. -/
theorem test_frameWord_overlap :
    frameWord { ready with cfg := { smallConfig with rxBase := 1 } } [5, 6, 7, 8] 0 = some 0xFA42 ∧
    frameWord { ready with cfg := { smallConfig with rxBase := 1 } } [5, 6, 7, 8] 1 = some 5 := by
  decide +kernel

theorem witness_InternalSteps :
    Inv { armed with csPin := true, csIrq := true } ∧
    ∃ u, execAll [.dmaTxStep, .csIsr, .dmaTxStep] { armed with csPin := true, csIrq := true } = some u :=
  ⟨inv_of_check (by decide +kernel), _, rfl⟩

/-- Slot 3 is the last and idle, slot 4 is outside; G = 100 and 99; slot 0 armed. -/
theorem witness_TimerStart :
    running.faulted = false ∧ running.cfg.timerCount ≤ 4 ∧ 3 < running.cfg.timerCount ∧
    (99 : U32).toNat < running.cfg.gran ∧ running.cfg.gran ≤ (100 : U32).toNat ∧
    (slotAt running 3).st = .idle ∧ (slotAt running 0).st ≠ .idle ∧ (slotAt fired 2).st ≠ .idle := by
  decide +kernel

/-- For TimerStopRemovesArmedTimers: armed, fired, idle (TimerInv: witness_inv_running, witness_inv_fired). -/
theorem witness_TimerStop :
    (slotAt running 0).st = .armed ∧ (slotAt fired 2).st ≠ .armed ∧ (slotAt running 3).st ≠ .armed := by
  decide +kernel

theorem witness_TimerRestart :
    (slotAt running 3).rld = none ∧ (slotAt running 0).rld = some 300 ∧
    ∃ s : State, TimerInv s ∧ s.faulted = false ∧ (slotAt s 0).st = .idle ∧
      (slotAt s 0).rld = some 100 :=
  ⟨by decide, by decide, { fresh with timers := ⟨.idle, some 0, some 100⟩ :: fresh.timers.tail },
    timerInv_of_check (by decide +kernel), by decide +kernel⟩

theorem witness_TimerPop :
    TimerInv fresh ∧ fresh.expq = [] ∧ TimerInv fired ∧ fired.faulted = false ∧ fired.expq = 2 :: [1] :=
  ⟨timerInv_of_check (by decide +kernel), rfl, witness_inv_fired.timer, rfl, rfl⟩

/-- A timer at REM = G fires, one above it does not. -/
theorem witness_Tick :
    configValid running.cfg = true ∧ running.faulted = false ∧ 2 ∈ running.tlist ∧
    (slotAt running 2).rem = some 100 ∧ (slotAt running 0).rem = some 300 ∧
    running.cfg.gran = 100 := by decide +kernel

theorem witness_TimerFires :
    configValid running.cfg = true ∧ running.faulted = false ∧ 3 < running.cfg.timerCount ∧
    (slotAt running 3).st = .idle ∧ (300 : U32).toNat = 3 * running.cfg.gran := by decide +kernel

theorem witness_PendingTimer :
    (slotAt running 0).st = .armed ∧ (slotAt running 0).rem = some 300 ∧
    (∃ u, execAll [.tick, .nop, .tick, .tmrPop] running = some u) ∧
    [Instr.tick, .nop, .tick, .tmrPop].count .tick * running.cfg.gran < (300 : U32).toNat :=
  ⟨by decide, by decide, ⟨_, rfl⟩, by decide +kernel⟩

theorem witness_TimersChange :
    (∃ u, exec .tmrPop fired = .next u) ∧ (slotAt fired 2).st = .fired ∧ fired.expq.head? = some 2 ∧
    ∃ u, exec (.tmrStart 3 100) fired = .next u ∧ (slotAt fired 3).st ≠ .armed ∧
      (slotAt u 3).st = .armed :=
  ⟨⟨_, rfl⟩, by decide, by decide, _, rfl, by decide, by decide +kernel⟩

/-- A written value at each register that may be ⊥, and the last slot and the first address past it. -/
theorem witness_RegisterMap :
    (∃ s : State, s.crcResult = some 0xFA42 ∧ s.popResult = some 2 ∧ s.rdData = some 10) ∧
    fired.expq = 2 :: [1] ∧ fresh.expq = [] ∧ (slotAt running 0).rem = some 300 ∧
    (slotAt running 0).rld = some 300 ∧ 3 < running.cfg.timerCount ∧
    0x10 + 3 * running.cfg.timerCount ≤ 0x1C :=
  ⟨⟨{ fresh with crcResult := some 0xFA42, popResult := some 2, rdData := some 10 }, by decide⟩,
    rfl, rfl, by decide, by decide, by decide, by decide⟩

theorem witness_UnwrittenRegister :
    (fresh.crcResult = none ∧ fresh.popResult = none ∧ fresh.rdData = none ∧
      (slotAt fresh 3).rem = none ∧ (slotAt fresh 3).rld = none ∧ 3 < fresh.cfg.timerCount) ∧
    fresh.faulted = false ∧ stuck.faulted = true ∧ stuck.crcResult = none := by decide +kernel

theorem witness_OnlyTheNamedSteps :
    (∃ t, exec .tick running = .next t) ∧ ready.faulted = false ∧
    ∃ t, exec (.bufRead 8) ready = .next t ∧ t.faulted = true := ⟨⟨_, rfl⟩, rfl, _, rfl, rfl⟩

end Sys2Proof.Tests
end

section
/-! What a step can refuse, from the gates up to `step` (R238): a command never is refused, an event only as
not enabled, a label that names no step as a bad label. So the configuration (R3) is refused by `step`
alone. -/

namespace Sys2Proof.Machine

/-! ### The refusals of the gates and of an instruction -/

theorem settle_ne_refused {op : Byte} {s : State} {x : Except Trap State} {r : Refusal} :
    settle op s x ≠ .refused r := by
  cases x <;> simp

theorem command_ne_refused {op : Byte} {body : State → Except Trap State} {s : State} {r : Refusal} :
    command op body s ≠ .refused r := by
  obtain ⟨t, ht⟩ := command_total op body s
  simp [ht]

/-- An event whose body refuses nothing is refused only as not enabled. -/
theorem event_refused {en : State → Bool} {body : State → Out} {s : State} {r : Refusal}
    (hb : body s ≠ .refused r) (h : event en body s = .refused r) : r = .notEnabled := by
  unfold event at h
  split at h
  · exact absurd h hb
  · cases h
    rfl

theorem execRegRead_ne_refused {a : Nat} {s : State} {r : Refusal} :
    execRegRead a s ≠ .refused r := by
  unfold execRegRead
  split
  · simp
  · split <;> simp

/-- A command goes through the gate of R81. -/
theorem exec_of_command {i : Instr} (hi : isEvent i = false) :
    ∃ body, ∀ s, exec i s = command (opcode i) body s := by
  cases i with
  | nop | crcInit | crcCompute | crcStamp | crcCheck | fxRefresh | fxTrigger | tmrStart | tmrStop
  | tmrRestart | tmrPop | bufWrite | bufRead => exact ⟨_, fun _ => rfl⟩
  | tick | csPin | csGlitch | csIsr | linkWord | dmaTxStep | dmaRxStep | dmaTxIsr | dmaRxIsr
  | regRead => cases hi

/-- An event but REG.READ goes through the gate of R229, and what runs behind the gate refuses nothing. -/
theorem exec_of_event {i : Instr} (hi : isEvent i = true) (hr : ∀ a, i ≠ .regRead a) :
    ∃ en body, (∀ s r, body s ≠ .refused r) ∧ ∀ s, exec i s = event en body s := by
  cases i with
  | nop | crcInit | crcCompute | crcStamp | crcCheck | fxRefresh | fxTrigger | tmrStart | tmrStop
  | tmrRestart | tmrPop | bufWrite | bufRead => cases hi
  | csPin | csGlitch | csIsr | linkWord | dmaTxIsr =>
    refine ⟨_, _, ?_, fun _ => rfl⟩
    intro s r
    simp
  | tick | dmaTxStep | dmaRxStep =>
    refine ⟨_, _, ?_, fun _ => rfl⟩
    intro s r
    split <;> simp
  | dmaRxIsr => exact ⟨_, _, fun _ _ => settle_ne_refused, fun _ => rfl⟩
  | regRead a => exact absurd rfl (hr a)

/-- Every instruction has a meaning: it is refused only where its step is not enabled (R229). -/
theorem exec_refused {i : Instr} {s : State} {r : Refusal} (h : exec i s = .refused r) :
    r = .notEnabled := by
  cases hi : isEvent i with
  | false =>
    obtain ⟨body, hc⟩ := exec_of_command hi
    rw [hc] at h
    exact absurd h command_ne_refused
  | true =>
    by_cases hr : ∃ a, i = .regRead a
    · obtain ⟨a, rfl⟩ := hr
      exact absurd h execRegRead_ne_refused
    · obtain ⟨en, body, hb, he⟩ := exec_of_event hi (not_exists.mp hr)
      rw [he] at h
      exact event_refused (hb s r) h

/-! ### The refusals of the port -/

theorem takeCommand_refused {w : CmdWord} {s : State} {r : Refusal}
    (h : takeCommand w s = .refused r) : r = .notEnabled := by
  unfold takeCommand at h
  split at h
  · exact absurd h command_ne_refused
  · split at h
    · exact exec_refused h
    · exact absurd h command_ne_refused
    · exact absurd h command_ne_refused

theorem takeLabel_refused {w : CmdWord} {s : State} {r : Refusal}
    (h : takeLabel w s = .refused r) : r = .badLabel ∨ r = .notEnabled := by
  unfold takeLabel at h
  split at h
  · split at h
    · exact .inr (exec_refused h)
    · cases h
      exact .inl rfl
  · cases h
    exact .inl rfl
  · cases h
    exact .inl rfl

theorem take_refused {x : Stimulus} {s : State} {r : Refusal} (h : take x s = .refused r) :
    r = .badLabel ∨ r = .notEnabled := by
  cases x with
  | command w => exact .inr (takeCommand_refused h)
  | label w => exact takeLabel_refused h
  | reset => cases h

/-! ### The step and its configuration -/

theorem step_of_invalid {s : State} (h : configValid s.cfg = false) :
    step s = .refused .badConfig := by
  simp [step, h]

theorem step_nil {s : State} (hv : configValid s.cfg = true) (hi : s.inputs = []) :
    step s = .next s := by
  simp [step, hv, hi]

theorem step_cons {s : State} {x : Stimulus} {rest : List Stimulus} (hv : configValid s.cfg = true)
    (hi : s.inputs = x :: rest) : step s = take x { s with inputs := rest } := by
  simp [step, hv, hi]

/-- With a legal configuration a step is refused only by the port. -/
theorem step_refused {s : State} {r : Refusal} (hv : configValid s.cfg = true)
    (h : step s = .refused r) : r = .badLabel ∨ r = .notEnabled := by
  cases hi : s.inputs with
  | nil =>
    rw [step_nil hv hi] at h
    cases h
  | cons x rest =>
    rw [step_cons hv hi] at h
    exact take_refused h

/-- `step` refuses the configuration exactly when it breaks R3. -/
theorem step_badConfig_iff {s : State} :
    step s = .refused .badConfig ↔ configValid s.cfg = false := by
  refine ⟨fun h => ?_, step_of_invalid⟩
  by_contra hv
  simpa using step_refused (Bool.eq_true_of_not_eq_false hv) h

/-- Settles O9: `configValid` is R3 clause by clause, and `step` refuses the configuration exactly when
that check fails. -/
theorem badConfigurationsAreRefused : Obligations.BadConfigurationsAreRefused := by
  intro s c words legal
  have hlegal : configValid s.cfg = true ↔ legal := by
    rw [configValid_iff, Nat.le_sub_one_iff_lt (by decide)]
    rfl
  rw [step_badConfig_iff, ← hlegal, Ne, step_badConfig_iff]
  simp

end Sys2Proof.Machine
end

section
/-! What one step can do, said once, guards included: `Effect` is the completion of each instruction rule by
rule, `Taken` adds the fault gates and the register read (R45, R81, R224, R229), `exec_next` and `take_next`
say that `exec` and the port do nothing else, and `StepKept.step` packages the induction over all of them. -/

namespace Sys2Proof.Machine

/-! ### Sequencing of checks and accesses -/

theorem bind_eq_ok {α β : Type} {x : Except Trap α} {f : α → Except Trap β} {b : β} :
    (x >>= f) = .ok b ↔ ∃ a, x = .ok a ∧ f a = .ok b := by
  cases x <;> simp [bind, Except.bind]

theorem require_eq_ok {c : Bool} {x : Trap} {u : Unit} : require c x = .ok u ↔ c = true :=
  require_ok

/-! ### The loops of a step -/

/-- Stamping writes the buffer only (R144). -/
theorem stampChunks_frame {ks : List Nat} {s t : State} (h : stampChunks ks s = .ok t) :
    ∃ m, t = { s with buf := m } := by
  induction ks generalizing s with
  | nil =>
    cases h
    exact ⟨_, rfl⟩
  | cons k ks ih =>
    obtain ⟨c, u, hu, hks⟩ := stampChunks_cons.mp h
    obtain ⟨ws, -, -, hw⟩ := stampChunk_ok.mp hu
    obtain ⟨-, -, rfl⟩ := cmdWrite_ok.mp hw
    obtain ⟨m, rfl⟩ := ih hks
    exact ⟨m, rfl⟩

/-- What every record of a verification keeps, the whole verification keeps (R143). -/
theorem verifySlots_induction {P : State → Prop} {ks : List Nat} {s t : State}
    (hrec : ∀ k ∈ ks, ∀ ok u, u.cfg = s.cfg → P u → P (recordCheck k ok u)) (hs : P s)
    (h : verifySlots ks s = .ok t) : P t := by
  induction ks generalizing s with
  | nil =>
    cases h
    exact hs
  | cons k ks ih =>
    obtain ⟨b, -, hks⟩ := verifySlots_cons.mp h
    have hcfg : (recordCheck k b s).cfg = s.cfg := by rw [recordCheck_eq]
    refine ih (fun j hj ok u hu => ?_) (hrec k (List.mem_cons_self ..) b s rfl hs) hks
    exact hrec j (List.mem_cons_of_mem _ hj) ok u (hu.trans hcfg)

/-- The verification writes MIS_MASK and MIS_CNT, and DIAG grows (R143). -/
theorem verifyReceived_frame {s t : State} (h : verifyReceived s = .ok t) :
    ∃ mask cnt new, t = { s with misMask := mask, misCnt := cnt, diag := s.diag ++ new } := by
  refine verifySlots_induction
    (P := fun t => ∃ mask cnt new, t = { s with misMask := mask, misCnt := cnt, diag := s.diag ++ new })
    (fun k _ ok u _ hu => ?_) ⟨s.misMask, s.misCnt, [], by simp⟩ (verifyReceived_ok.mp h).2
  obtain ⟨mask, cnt, new, rfl⟩ := hu
  rw [recordCheck_eq]
  cases ok with
  | true => exact ⟨_, _, new, rfl⟩
  | false => exact ⟨mask ||| ((1 : U32) <<< k), cnt + 1, new ++ [.crcMismatch k], by simp⟩

/-- The walk writes the slots and the two lists only (R182). -/
theorem tickWalk_frame (ks : List Nat) (s : State) :
    ∃ ts tl ex, ks.foldl tickSlot s = { s with timers := ts, tlist := tl, expq := ex } := by
  induction ks generalizing s with
  | nil => exact ⟨s.timers, s.tlist, s.expq, rfl⟩
  | cons k ks ih =>
    obtain ⟨ts, tl, ex, h⟩ := ih (tickSlot s k)
    rw [tickSlot_frame] at h
    exact ⟨ts, tl, ex, by rw [List.foldl_cons, tickSlot_frame, h]⟩

/-! ### The completions -/

/-- `Effect s i t`: t is what instruction i makes of s when it completes without a fault. REG.READ is no
completion of the block's state and stands in `Taken`. -/
inductive Effect (s : State) : Instr → State → Prop
  /-- R83. -/
  | nop : Effect s .nop s
  /-- R101. -/
  | crcInit : Effect s .crcInit { s with tableValid := true }
  /-- R106. -/
  | crcCompute {a n : Nat} {ws : List Word} (range : a + n ≤ bufWords s.cfg)
      (built : s.tableValid = true) (read : readSpan (cmdRead s) a n = .ok ws) :
      Effect s (.crcCompute a n) { s with crcResult := some (crcWords ws) }
  /-- R107. -/
  | crcStamp {k : Nat} {ws : List Word} (chunk : k < 2 * s.cfg.workers)
      (built : s.tableValid = true) (read : readPayload (cmdRead s) s.cfg k = .ok ws)
      (inside : chunkBase s.cfg k < bufWords s.cfg) (free : writeRace s (chunkBase s.cfg k) = false) :
      Effect s (.crcStamp k)
        { bufSet (chunkBase s.cfg k) (crcWords ws) s with crcResult := some (crcWords ws) }
  /-- R108. -/
  | crcCheck {k : Nat} {ws : List Word} {stored : Word} (chunk : k < 2 * s.cfg.workers)
      (built : s.tableValid = true) (read : readPayload (cmdRead s) s.cfg k = .ok ws)
      (header : cmdRead s (chunkBase s.cfg k) = .ok stored) :
      Effect s (.crcCheck k) { s with
        crcResult := some (crcWords ws), crcMatch := some (decide (crcWords ws = stored)) }
  /-- R144. -/
  | fxRefresh {m : Memory} (built : s.tableValid = true)
      (stamps : stampChunks (ownedChunks s.cfg) s = .ok { s with buf := m }) :
      Effect s .fxRefresh { s with buf := m, live := !s.live }
  /-- R136. -/
  | fxTrigger (controller : s.cfg.role = .controller) :
      Effect s .fxTrigger { armTransfer s with ctlLeft := xferCount s.cfg }
  /-- R184, the silent rejection. -/
  | tmrStartShort {t : Nat} {p : U32} (slot : t < s.cfg.timerCount) (short : p.toNat < s.cfg.gran) :
      Effect s (.tmrStart t p) s
  /-- R184. -/
  | tmrStart {t : Nat} {p : U32} (slot : t < s.cfg.timerCount) (long : s.cfg.gran ≤ p.toNat) :
      Effect s (.tmrStart t p)
        (armIdle t (slotSet t { slotAt s t with rem := some p, rld := some p } s))
  /-- R185, an armed timer. -/
  | tmrStop {t : Nat} (slot : t < s.cfg.timerCount) (armed : (slotAt s t).st = .armed) :
      Effect s (.tmrStop t) (slotSet t { slotAt s t with st := .idle } (removeTlist t s))
  /-- R185, a timer that is not armed. -/
  | tmrStopOther {t : Nat} (slot : t < s.cfg.timerCount) (other : (slotAt s t).st ≠ .armed) :
      Effect s (.tmrStop t) s
  /-- R186. -/
  | tmrRestart {t : Nat} {p : U32} (slot : t < s.cfg.timerCount) (period : (slotAt s t).rld = some p) :
      Effect s (.tmrRestart t) (armIdle t (slotSet t { slotAt s t with rem := some p } s))
  /-- R187, an empty queue. -/
  | tmrPopEmpty (empty : s.expq = []) : Effect s .tmrPop { s with popResult := some noSlot }
  /-- R187. -/
  | tmrPop {t : Nat} {ts : List Nat} (head : s.expq = t :: ts) :
      Effect s .tmrPop (slotSet t { slotAt s t with st := .idle }
        { s with expq := ts, popResult := some (BitVec.ofNat 32 t) })
  /-- R145. -/
  | bufWrite {a : Nat} {v : Word} (inside : a < bufWords s.cfg) (free : writeRace s a = false) :
      Effect s (.bufWrite a v) (bufSet a v s)
  /-- R146. -/
  | bufRead {a : Nat} {w : Word} (inside : a < bufWords s.cfg) (read : cmdRead s a = .ok w) :
      Effect s (.bufRead a) { s with rdData := some w }
  /-- R182, R183. -/
  | tick {ts : List Slot} {tl ex : List Nat} (written : armedWritten s = true)
      (walk : s.tlist.foldl tickSlot { s with now := s.now + granCount s.cfg } =
        { s with now := s.now + granCount s.cfg, timers := ts, tlist := tl, expq := ex }) :
      Effect s .tick { s with now := s.now + granCount s.cfg, timers := ts, tlist := tl, expq := ex }
  /-- R131. -/
  | csPin {level : Bool} (worker : s.cfg.role = .worker) (edge : level ≠ s.csPin) :
      Effect s (.csPin level) { s with csPin := level, csIrq := true }
  /-- R132. -/
  | csGlitch (worker : s.cfg.role = .worker) : Effect s .csGlitch { s with csIrq := true }
  /-- R133, no edge. -/
  | csNoEdge (worker : s.cfg.role = .worker) (irq : s.csIrq = true) (same : s.csPin = s.lastLevel) :
      Effect s .csIsr { s with csIrq := false }
  /-- R133, the rising edge. -/
  | csDeselect (worker : s.cfg.role = .worker) (irq : s.csIrq = true) (pin : s.csPin = true)
      (last : s.lastLevel = false) :
      Effect s .csIsr (closeFrame { s with csIrq := false, lastLevel := true })
  /-- R133, the falling edge. -/
  | csSelect (worker : s.cfg.role = .worker) (irq : s.csIrq = true) (pin : s.csPin = false)
      (last : s.lastLevel = true) :
      Effect s .csIsr (armTransfer { s with csIrq := false, lastLevel := false })
  /-- R138. -/
  | linkWord {p : Word} (active : linkActive s = true) :
      Effect s (.linkWord p) (countWord (shiftIn p (shiftOut s)))
  /-- R139. -/
  | dmaTxStep (run : s.txCh = .run) (room : s.txFifo.length < s.cfg.txFifoDepth)
      (inside : txAddr s < bufWords s.cfg) :
      Effect s .dmaTxStep { s with
        txFifo := s.txFifo ++ [bufGet s (txAddr s)]
        txIdx := s.txIdx + 1
        txCh := chanAfter s.cfg (s.txIdx + 1) s.txCh }
  /-- R140. -/
  | dmaRxStep (run : s.rxCh = .run) (avail : s.rxFifo ≠ []) (inside : rxAddr s < bufWords s.cfg) :
      Effect s .dmaRxStep { bufSet (rxAddr s) (s.rxFifo.headD 0) s with
        rxFifo := s.rxFifo.tail
        rxIdx := s.rxIdx + 1
        rxCh := chanAfter s.cfg (s.rxIdx + 1) s.rxCh }
  /-- R141. -/
  | dmaTxIsr (done : s.txCh = .done) : Effect s .dmaTxIsr { s with pendTx := false, txCh := .idle }
  /-- R142, R143. -/
  | dmaRxIsr {mask cnt : U32} {new : List Diag} (done : s.rxCh = .done)
      (verified : verifyReceived (endReception s) = .ok
        { endReception s with misMask := mask, misCnt := cnt, diag := s.diag ++ new }) :
      Effect s .dmaRxIsr
        { endReception s with misMask := mask, misCnt := cnt, diag := s.diag ++ new }

/-- `Taken s i t`: t is the next state that instruction i gives from s. -/
inductive Taken (s : State) (i : Instr) : State → Prop
  /-- The instruction completes. -/
  | completed {t : State} (running : s.faulted = false) (effect : Effect s i t) : Taken s i t
  /-- A command while the block is faulted (R81, R224). -/
  | ignored (stuck : s.faulted = true) (cmd : isEvent i = false) : Taken s i s
  /-- Fault entry by a command or by the receive handler (R220, R224). -/
  | raised (running : s.faulted = false) (source : isEvent i = false ∨ i = .dmaRxIsr) (x : Trap) :
      Taken s i (raiseFault (opcode i) x s)
  /-- A read of a register that holds a value (R45). -/
  | read {r : Nat} {v : U32} (source : i = .regRead r) (value : regValue s r = some v) :
      Taken s i { s with readOut := some v }
  /-- A read of an unwritten register while the block is faulted (R224). -/
  | readStuck {r : Nat} (source : i = .regRead r) (value : regValue s r = none)
      (stuck : s.faulted = true) : Taken s i { s with readOut := none }
  /-- A read of an unwritten register (R45, R221). -/
  | readRaised {r : Nat} (source : i = .regRead r) (value : regValue s r = none)
      (running : s.faulted = false) :
      Taken s i (raiseFault (opcode i) ⟨.unwrittenRead, r⟩ { s with readOut := none })

/-! ### `exec` does nothing else -/

theorem taken_of_command {i : Instr} {body : State → Except Trap State} {s t : State}
    (hc : isEvent i = false) (hb : ∀ u, body s = .ok u → Effect s i u)
    (h : command (opcode i) body s = .next t) : Taken s i t := by
  rcases command_next h with ⟨hf, rfl⟩ | ⟨hf, ht⟩ | ⟨hf, x, -, rfl⟩
  · exact .ignored hf hc
  · exact .completed hf (hb t ht)
  · exact .raised hf (.inl hc) x

theorem taken_of_event {i : Instr} {en : State → Bool} {body : State → Out} {s t : State}
    (hb : en s = true → body s = .next t → Effect s i t) (h : event en body s = .next t) :
    Taken s i t := by
  obtain ⟨hf, he, ht⟩ := event_next h
  exact .completed hf (hb he ht)

theorem csEdge_rising {s : State} (hp : s.csPin = true) (hl : s.lastLevel = false) :
    csEdge s = closeFrame { s with lastLevel := true } := by
  rw [csEdge_eq, if_neg (by simp [hp, hl]), if_pos hp, hp]

theorem csEdge_falling {s : State} (hp : s.csPin = false) (hl : s.lastLevel = true) :
    csEdge s = armTransfer { s with lastLevel := false } := by
  rw [csEdge_eq, if_neg (by simp [hp, hl]), if_neg (by simp [hp]), hp]

theorem execCsIsr_taken {s t : State} (h : execCsIsr s = .next t) : Taken s .csIsr t := by
  refine taken_of_event (fun he ht => ?_) h
  simp only [Bool.and_eq_true, decide_eq_true_eq] at he
  obtain ⟨hw, hq⟩ := he
  cases ht
  by_cases hsame : s.csPin = s.lastLevel
  · rw [csEdge_eq, if_pos hsame]
    exact .csNoEdge hw hq hsame
  · rcases Bool.eq_false_or_eq_true s.csPin with hp | hp
    · have hl : s.lastLevel = false := by simpa [hp] using hsame
      rw [csEdge_rising (s := { s with csIrq := false }) hp hl]
      exact .csDeselect hw hq hp hl
    · have hl : s.lastLevel = true := by simpa [hp] using hsame
      rw [csEdge_falling (s := { s with csIrq := false }) hp hl]
      exact .csSelect hw hq hp hl

theorem execDmaRxIsr_taken {s t : State} (h : execDmaRxIsr s = .next t) : Taken s .dmaRxIsr t := by
  obtain ⟨hf, he, ht⟩ := event_next h
  rcases settle_next ht with ht | ⟨x, -, rfl⟩
  · obtain ⟨mask, cnt, new, rfl⟩ := verifyReceived_frame ht
    exact .completed hf (.dmaRxIsr (of_decide_eq_true he) ht)
  · exact .raised hf (.inr rfl) x

theorem execRegRead_taken {r : Nat} {s t : State} (h : execRegRead r s = .next t) :
    Taken s (.regRead r) t := by
  unfold execRegRead at h
  split at h
  case h_1 v hv =>
    cases h
    exact .read rfl hv
  case h_2 hv =>
    split at h <;> rename_i hf <;> cases h
    · exact .readStuck rfl hv hf
    · exact .readRaised rfl hv (Bool.eq_false_of_not_eq_true hf)

theorem execNop_taken {s t : State} (h : execNop s = .next t) : Taken s .nop t := by
  refine taken_of_command rfl (fun u hu => ?_) h
  cases hu
  exact .nop

theorem execCrcInit_taken {s t : State} (h : execCrcInit s = .next t) : Taken s .crcInit t := by
  refine taken_of_command rfl (fun u hu => ?_) h
  cases hu
  exact .crcInit

theorem execCrcCompute_taken {a n : Nat} {s t : State} (h : execCrcCompute a n s = .next t) :
    Taken s (.crcCompute a n) t := by
  refine taken_of_command rfl (fun u hu => ?_) h
  simp only [checkRange, checkTable, bind_eq_ok, require_eq_ok, exists_const, decide_eq_true_eq,
    Except.ok.injEq] at hu
  obtain ⟨hr, ht, ws, hws, rfl⟩ := hu
  exact .crcCompute hr ht hws

theorem execCrcStamp_taken {k : Nat} {s t : State} (h : execCrcStamp k s = .next t) :
    Taken s (.crcStamp k) t := by
  refine taken_of_command rfl (fun u hu => ?_) h
  simp only [checkChunk, checkTable, bind_eq_ok, require_eq_ok, exists_const, decide_eq_true_eq,
    Prod.exists, Except.ok.injEq, stampChunk_ok] at hu
  obtain ⟨hk, ht, c, u', ⟨ws, hws, rfl, hw⟩, rfl⟩ := hu
  obtain ⟨hfree, hin, rfl⟩ := cmdWrite_ok.mp hw
  exact .crcStamp hk ht hws hin hfree

theorem execCrcCheck_taken {k : Nat} {s t : State} (h : execCrcCheck k s = .next t) :
    Taken s (.crcCheck k) t := by
  refine taken_of_command rfl (fun u hu => ?_) h
  simp only [checkChunk, checkTable, bind_eq_ok, require_eq_ok, exists_const, decide_eq_true_eq,
    Except.ok.injEq] at hu
  obtain ⟨hk, ht, ws, hws, w, hw, rfl⟩ := hu
  exact .crcCheck hk ht hws hw

theorem execFxRefresh_taken {s t : State} (h : execFxRefresh s = .next t) :
    Taken s .fxRefresh t := by
  refine taken_of_command rfl (fun u hu => ?_) h
  simp only [checkTable, bind_eq_ok, require_eq_ok, exists_const, Except.ok.injEq] at hu
  obtain ⟨ht, u', hs, rfl⟩ := hu
  obtain ⟨m, rfl⟩ := stampChunks_frame hs
  exact .fxRefresh ht hs

theorem execFxTrigger_taken {s t : State} (h : execFxTrigger s = .next t) :
    Taken s .fxTrigger t := by
  refine taken_of_command rfl (fun u hu => ?_) h
  simp only [bind_eq_ok, require_eq_ok, exists_const, decide_eq_true_eq, Except.ok.injEq] at hu
  obtain ⟨hr, rfl⟩ := hu
  exact .fxTrigger hr

theorem execTmrStart_taken {k : Nat} {p : U32} {s t : State} (h : execTmrStart k p s = .next t) :
    Taken s (.tmrStart k p) t := by
  refine taken_of_command rfl (fun u hu => ?_) h
  simp only [checkTimer, bind_eq_ok, require_eq_ok, exists_const, decide_eq_true_eq] at hu
  obtain ⟨hk, hu⟩ := hu
  split at hu <;> rename_i hp <;> cases hu
  · exact .tmrStartShort hk hp
  · exact .tmrStart hk (Nat.le_of_not_lt hp)

theorem execTmrStop_taken {k : Nat} {s t : State} (h : execTmrStop k s = .next t) :
    Taken s (.tmrStop k) t := by
  refine taken_of_command rfl (fun u hu => ?_) h
  simp only [checkTimer, bind_eq_ok, require_eq_ok, exists_const, decide_eq_true_eq] at hu
  obtain ⟨hk, hu⟩ := hu
  split at hu <;> rename_i hst <;> cases hu
  · exact .tmrStop hk hst
  · exact .tmrStopOther hk (by simp [hst])
  · exact .tmrStopOther hk (by simp [hst])

theorem execTmrRestart_taken {k : Nat} {s t : State} (h : execTmrRestart k s = .next t) :
    Taken s (.tmrRestart k) t := by
  refine taken_of_command rfl (fun u hu => ?_) h
  simp only [checkTimer, bind_eq_ok, require_eq_ok, exists_const, decide_eq_true_eq] at hu
  obtain ⟨hk, hu⟩ := hu
  split at hu <;> rename_i hr <;> cases hu
  exact .tmrRestart hk hr

theorem execTmrPop_taken {s t : State} (h : execTmrPop s = .next t) : Taken s .tmrPop t := by
  refine taken_of_command rfl (fun u hu => ?_) h
  split at hu <;> rename_i hq <;> cases hu
  · exact .tmrPopEmpty hq
  · exact .tmrPop hq

theorem execBufWrite_taken {a : Nat} {v : Word} {s t : State} (h : execBufWrite a v s = .next t) :
    Taken s (.bufWrite a v) t := by
  refine taken_of_command rfl (fun u hu => ?_) h
  simp only [checkAddr, bind_eq_ok, require_eq_ok, exists_const, decide_eq_true_eq, cmdWrite_ok] at hu
  obtain ⟨ha, hr, -, rfl⟩ := hu
  exact .bufWrite ha hr

theorem execBufRead_taken {a : Nat} {s t : State} (h : execBufRead a s = .next t) :
    Taken s (.bufRead a) t := by
  refine taken_of_command rfl (fun u hu => ?_) h
  simp only [checkAddr, bind_eq_ok, require_eq_ok, exists_const, decide_eq_true_eq,
    Except.ok.injEq] at hu
  obtain ⟨ha, w, hw, rfl⟩ := hu
  exact .bufRead ha hw

theorem execTick_taken {s t : State} (h : execTick s = .next t) : Taken s .tick t := by
  refine taken_of_event (fun _ ht => ?_) h
  split at ht <;> rename_i hw <;> cases ht
  obtain ⟨ts, tl, ex, hwalk⟩ := tickWalk_frame s.tlist { s with now := s.now + granCount s.cfg }
  rw [hwalk]
  exact .tick hw hwalk

theorem execDmaTxStep_taken {s t : State} (h : execDmaTxStep s = .next t) :
    Taken s .dmaTxStep t := by
  refine taken_of_event (fun he ht => ?_) h
  simp only [Bool.and_eq_true, decide_eq_true_eq] at he
  split at ht <;> rename_i ha <;> cases ht
  exact .dmaTxStep he.1 he.2 ha

theorem execDmaRxStep_taken {s t : State} (h : execDmaRxStep s = .next t) :
    Taken s .dmaRxStep t := by
  refine taken_of_event (fun he ht => ?_) h
  simp only [Bool.and_eq_true, decide_eq_true_eq, Bool.not_eq_true', List.isEmpty_eq_false_iff] at he
  split at ht <;> rename_i ha <;> cases ht
  exact .dmaRxStep he.1 he.2 ha

theorem execCsPin_taken {level : Bool} {s t : State} (h : execCsPin level s = .next t) :
    Taken s (.csPin level) t := by
  refine taken_of_event (fun he ht => ?_) h
  simp only [Bool.and_eq_true, decide_eq_true_eq] at he
  cases ht
  exact .csPin he.1 he.2

theorem execCsGlitch_taken {s t : State} (h : execCsGlitch s = .next t) : Taken s .csGlitch t := by
  refine taken_of_event (fun he ht => ?_) h
  cases ht
  exact .csGlitch (of_decide_eq_true he)

theorem execLinkWord_taken {p : Word} {s t : State} (h : execLinkWord p s = .next t) :
    Taken s (.linkWord p) t := by
  refine taken_of_event (fun he ht => ?_) h
  cases ht
  exact .linkWord he

theorem execDmaTxIsr_taken {s t : State} (h : execDmaTxIsr s = .next t) : Taken s .dmaTxIsr t := by
  refine taken_of_event (fun he ht => ?_) h
  cases ht
  exact .dmaTxIsr (of_decide_eq_true he)

/-- Every next state of every instruction is one that `Taken` lists. -/
theorem exec_next {i : Instr} {s t : State} (h : exec i s = .next t) : Taken s i t := by
  cases i with
  | nop => exact execNop_taken h
  | crcInit => exact execCrcInit_taken h
  | crcCompute a n => exact execCrcCompute_taken h
  | crcStamp k => exact execCrcStamp_taken h
  | crcCheck k => exact execCrcCheck_taken h
  | fxRefresh => exact execFxRefresh_taken h
  | fxTrigger => exact execFxTrigger_taken h
  | tmrStart k p => exact execTmrStart_taken h
  | tmrStop k => exact execTmrStop_taken h
  | tmrRestart k => exact execTmrRestart_taken h
  | tmrPop => exact execTmrPop_taken h
  | bufWrite a v => exact execBufWrite_taken h
  | bufRead a => exact execBufRead_taken h
  | tick => exact execTick_taken h
  | csPin level => exact execCsPin_taken h
  | csGlitch => exact execCsGlitch_taken h
  | csIsr => exact execCsIsr_taken h
  | linkWord p => exact execLinkWord_taken h
  | dmaTxStep => exact execDmaTxStep_taken h
  | dmaRxStep => exact execDmaRxStep_taken h
  | dmaTxIsr => exact execDmaTxIsr_taken h
  | dmaRxIsr => exact execDmaRxIsr_taken h
  | regRead r => exact execRegRead_taken h

/-! ### The port and the step -/

/-- What a stimulus can do: an instruction, nothing or a fault at the port, or reset. -/
inductive TakenStimulus (s : State) : State → Prop
  | exec {i : Instr} {t : State} (taken : Taken s i t) : TakenStimulus s t
  /-- A command word that is no command, while the block is faulted (R81). -/
  | ignored (stuck : s.faulted = true) : TakenStimulus s s
  /-- A command word that is no command (R73 to R75). -/
  | raised (running : s.faulted = false) (op : Byte) (x : Trap) : TakenStimulus s (raiseFault op x s)
  /-- R261. -/
  | reset : TakenStimulus s { State.resetWith s.cfg with inputs := s.inputs }

theorem portFault_next {w : CmdWord} {k : FaultKind} {s t : State} (h : portFault w k s = .next t) :
    TakenStimulus s t := by
  rcases command_next h with ⟨hf, rfl⟩ | ⟨-, ht⟩ | ⟨hf, x, -, rfl⟩
  · exact .ignored hf
  · cases ht
  · exact .raised hf _ x

theorem takeCommand_next {w : CmdWord} {s t : State} (h : takeCommand w s = .next t) :
    TakenStimulus s t := by
  unfold takeCommand at h
  split at h
  · exact portFault_next h
  · split at h
    · exact .exec (exec_next h)
    · exact portFault_next h
    · exact portFault_next h

theorem takeLabel_next {w : CmdWord} {s t : State} (h : takeLabel w s = .next t) :
    TakenStimulus s t := by
  unfold takeLabel at h
  split at h
  · split at h
    · exact .exec (exec_next h)
    · cases h
  · cases h
  · cases h

theorem take_next {x : Stimulus} {s t : State} (h : take x s = .next t) : TakenStimulus s t := by
  cases x with
  | command w => exact takeCommand_next h
  | label w => exact takeLabel_next h
  | reset =>
    cases h
    exact .reset

/-- A step with a next state either finds no stimulus, or takes the first one. -/
theorem step_next {s t : State} (h : step s = .next t) :
    configValid s.cfg = true ∧ (s.inputs = [] ∧ t = s ∨
      ∃ x rest, s.inputs = x :: rest ∧ TakenStimulus { s with inputs := rest } t) := by
  have hv : configValid s.cfg = true := by
    by_contra hv
    rw [step_of_invalid (Bool.eq_false_of_not_eq_true hv)] at h
    cases h
  refine ⟨hv, ?_⟩
  cases hi : s.inputs with
  | nil =>
    rw [step_nil hv hi] at h
    cases h
    exact .inl ⟨rfl, rfl⟩
  | cons x rest =>
    rw [step_cons hv hi] at h
    exact .inr ⟨x, rest, rfl, take_next h⟩

/-! ### The induction over a step -/

/-- What makes a predicate on states an invariant: reset meets it, every completion keeps it, and it says
nothing of the model's own fields and nothing that a fault entry breaks. -/
structure StepKept (P : State → Prop) : Prop where
  own : ∀ {s} inputs readOut, P s → P { s with inputs := inputs, readOut := readOut }
  latch : ∀ {s} op x, P s → P (raiseFault op x s)
  reset : ∀ {c}, configValid c = true → P (State.resetWith c)
  effect : ∀ {s i t}, configValid s.cfg = true → s.faulted = false → P s → Effect s i t → P t

theorem StepKept.taken {P : State → Prop} (k : StepKept P) {i : Instr} {s t : State}
    (hv : configValid s.cfg = true) (hs : P s) (h : Taken s i t) : P t := by
  cases h with
  | completed hf he => exact k.effect hv hf hs he
  | ignored => exact hs
  | raised _ _ x => exact k.latch _ x hs
  | read | readStuck => exact k.own _ _ hs
  | readRaised => exact k.latch _ _ (k.own _ _ hs)

theorem StepKept.step {P : State → Prop} (k : StepKept P) {s t : State} (hs : P s)
    (h : Machine.step s = .next t) : P t := by
  obtain ⟨hv, ⟨-, rfl⟩ | ⟨x, rest, -, ht⟩⟩ := step_next h
  · exact hs
  · have hs' : P { s with inputs := rest } := k.own _ _ hs
    cases ht with
    | exec he => exact k.taken (s := { s with inputs := rest }) hv hs' he
    | ignored => exact hs'
    | raised _ op x => exact k.latch op x hs'
    | reset => exact k.own _ _ (k.reset hv)

end Sys2Proof.Machine
end

section
/-! Which step writes which element (R22 to R44, R61, R220), read off the completions of a step. -/

namespace Sys2Proof.Machine

/-- No instruction touches the configuration or the stimuli to come (log entries 1 and 3). -/
theorem Taken.cfg_inputs {s t : State} {i : Instr} (h : Taken s i t) :
    t.cfg = s.cfg ∧ t.inputs = s.inputs := by
  cases h with
  | ignored | raised | read | readStuck | readRaised => exact ⟨rfl, rfl⟩
  | completed _ he =>
    cases he with
    | fxTrigger | csSelect => simp [armTransfer_eq]
    | linkWord => simp [countWord_eq, shiftIn_eq, shiftOut]
    | tmrStart | tmrRestart => simp [armIdle_eq]
    | nop | crcInit | crcCompute | crcStamp | crcCheck | fxRefresh | tmrStartShort | tmrStop
    | tmrStopOther | tmrPopEmpty | tmrPop | bufWrite | bufRead | tick | csPin | csGlitch | csNoEdge
    | csDeselect | dmaTxStep | dmaRxStep | dmaTxIsr | dmaRxIsr => exact ⟨rfl, rfl⟩

/-- A conditional record at the end of a trace is an append either way. -/
theorem ite_append_singleton {α : Type} {c : Prop} [Decidable c] (l : List α) (x : α) :
    (if c then l ++ [x] else l) = l ++ if c then [x] else [] := by
  split <;> simp

/-- Settles O60: each completion is a record update that names the elements it writes, and a fault entry
writes the latch. -/
theorem onlyTheNamedStepsWriteEachElement : Obligations.OnlyTheNamedStepsWriteEachElement := by
  intro i s t h
  cases exec_next h with
  | ignored => simp
  | read source | readStuck source => simp [source]
  | raised hf source =>
    rcases source with hc | hi
    · simp [hf, hc]
    · simp [hf, hi]
  | readRaised source _ hf => simp [source, hf]
  | completed _ he =>
    cases he with
    | fxTrigger | csSelect => simp [armTransfer_eq, ite_append_singleton]
    | linkWord => simp [countWord_eq, shiftIn_eq, shiftOut]
    | tmrStart | tmrRestart => simp [armIdle_eq]
    | nop | crcInit | crcCompute | crcStamp | crcCheck | fxRefresh | tmrStartShort | tmrStop
    | tmrStopOther | tmrPopEmpty | tmrPop | bufWrite | bufRead | tick | csPin | csGlitch | csNoEdge
    | csDeselect | dmaTxStep | dmaRxStep | dmaTxIsr | dmaRxIsr => simp

theorem TakenStimulus.cfg_inputs {s t : State} (h : TakenStimulus s t) :
    t.cfg = s.cfg ∧ t.inputs = s.inputs := by
  cases h with
  | exec h => exact h.cfg_inputs
  | ignored | raised | reset => exact ⟨rfl, rfl⟩

/-- Settles O10: `step` takes the head of the stimuli off, and nothing that runs on it touches the
configuration or the rest. -/
theorem stepTakesOneStimulusAndKeepsTheConfiguration :
    Obligations.StepTakesOneStimulusAndKeepsTheConfiguration := by
  refine ⟨fun s t h => ?_, fun s hv hi => step_nil hv hi⟩
  obtain ⟨-, ⟨hi, rfl⟩ | ⟨x, rest, hi, ht⟩⟩ := step_next h
  · exact ⟨rfl, by rw [hi]; rfl⟩
  · rw [hi]
    exact ht.cfg_inputs

end Sys2Proof.Machine
end

section
/-! The timer invariant R42: one law for a step that writes one slot and its place in the two lists, and from
it the invariant for each timer step. -/

namespace Sys2Proof.Machine

theorem lt_of_slotAt_ne {s : State} {t : Nat} (h : slotAt s t ≠ Slot.unused) :
    t < s.timers.length := by
  by_contra hge
  exact h (slotAt_of_ge (Nat.le_of_not_lt hge))

theorem slotAt_of_set {s u : State} {t : Nat} {x : Slot} (ht : t < s.timers.length)
    (hu : u.timers = s.timers.set t x) (k : Nat) :
    slotAt u k = if k = t then x else slotAt s k := by
  have hslot : slotAt u k = slotAt (slotSet t x s) k := by simp [slotAt, slotSet, hu]
  rw [hslot]
  split <;> rename_i hk
  · rw [hk, slotAt_slotSet_same x ht]
  · exact slotAt_slotSet_other x s hk

/-- u is s with slot t rewritten to x and t put where x's state belongs: what R42 asks of a rule. -/
structure SlotWrite (s u : State) (t : Nat) (x : Slot) : Prop where
  slot : t < s.timers.length
  cfg : u.cfg = s.cfg
  timers : u.timers = s.timers.set t x
  tlistNodup : u.tlist.Nodup
  expqNodup : u.expq.Nodup
  tlistOthers : ∀ k ≠ t, k ∈ u.tlist ↔ k ∈ s.tlist
  expqOthers : ∀ k ≠ t, k ∈ u.expq ↔ k ∈ s.expq
  armed : t ∈ u.tlist ↔ x.st = .armed
  fired : t ∈ u.expq ↔ x.st = .fired
  written : x.st = .armed → x.rem.isSome ∧ x.rld.isSome
  floor : ∀ p, x.rld = some p → s.cfg.gran ≤ p.toNat

theorem TimerInv.slotWrite {s u : State} {t : Nat} {x : Slot} (h : TimerInv s)
    (w : SlotWrite s u t x) : TimerInv u := by
  have hat := slotAt_of_set w.slot w.timers
  refine ⟨?_, w.tlistNodup, w.expqNodup, fun k => ?_, fun k => ?_, fun k hk => ?_, fun k p hp => ?_⟩
  · rw [w.timers, List.length_set, w.cfg, h.slots]
  all_goals by_cases hkt : k = t
  · simp [hat, hkt, w.armed]
  · simp [hat, hkt, w.tlistOthers, h.armed]
  · simp [hat, hkt, w.fired]
  · simp [hat, hkt, w.expqOthers, h.fired]
  · subst hkt
    simpa [hat] using w.written (w.armed.mp hk)
  · simpa [hat, hkt] using h.written k ((w.tlistOthers k hkt).mp hk)
  · rw [hat, if_pos hkt] at hp
    exact w.cfg ▸ w.floor p hp
  · rw [hat, if_neg hkt] at hp
    exact w.cfg ▸ h.floor k p hp

/-! ### The invariant for each timer step -/

/-- An idle timer is in neither list (R42). -/
theorem TimerInv.queued_idle {s : State} {t : Nat} (h : TimerInv s) (hst : (slotAt s t).st = .idle) :
    queued s t = false := by
  simp [queued, h.armed, h.fired, hst]

theorem armIdle_slotSet {s : State} {t : Nat} {x : Slot} (ht : t < s.timers.length) :
    armIdle t (slotSet t x s) = { s with
      timers := s.timers.set t (if x.st = .idle then { x with st := .armed } else x)
      tlist := if x.st = .idle ∧ queued s t = false then s.tlist ++ [t] else s.tlist } := by
  rw [armIdle_eq, slotAt_slotSet_same x ht]
  cases hst : x.st <;> simp [slotSet, queued]

/-- Reloading a timer and arming it if it was idle (R184, R186). -/
theorem TimerInv.armIdle {s : State} {t : Nat} {x : Slot} (h : TimerInv s)
    (ht : t < s.timers.length) (hst : x.st = (slotAt s t).st) (hrem : x.rem.isSome)
    (hrld : x.rld.isSome) (hfloor : ∀ p, x.rld = some p → s.cfg.gran ≤ p.toNat) :
    TimerInv (armIdle t (slotSet t x s)) := by
  rw [armIdle_slotSet ht]
  by_cases hi : x.st = .idle
  · have hi' : (slotAt s t).st = .idle := hst ▸ hi
    have htl : t ∉ s.tlist := by simp [h.armed, hi']
    refine h.slotWrite (t := t) (x := { x with st := .armed }) ⟨ht, rfl, ?_, ?_, h.expqNodup, ?_,
      fun _ _ => Iff.rfl, ?_, ?_, fun _ => ⟨hrem, hrld⟩, hfloor⟩
    · simp [hi]
    · simpa [hi, h.queued_idle hi'] using h.tlistNodup.concat htl
    · intro k hk
      simp [hi, h.queued_idle hi', hk]
    · simp [hi, h.queued_idle hi']
    · simp [h.fired, hi']
  · refine h.slotWrite (t := t) (x := x) ⟨ht, rfl, ?_, ?_, h.expqNodup, ?_, fun _ _ => Iff.rfl, ?_, ?_,
      fun _ => ⟨hrem, hrld⟩, hfloor⟩
    · simp [hi]
    · simpa [hi] using h.tlistNodup
    · simp [hi]
    · simpa [hi, ← hst] using h.armed t
    · simp [h.fired, hst]

/-- Stopping an armed timer (R185). -/
theorem TimerInv.stop {s : State} {t : Nat} (h : TimerInv s) (hst : (slotAt s t).st = .armed) :
    TimerInv (slotSet t { slotAt s t with st := .idle } (removeTlist t s)) := by
  have ht : t < s.timers.length := lt_of_slotAt_ne fun hu => by simp [hu, Slot.unused] at hst
  refine h.slotWrite ⟨ht, rfl, rfl, h.tlistNodup.erase t, h.expqNodup, fun k hk => ?_,
    fun _ _ => Iff.rfl, ?_, ?_, fun hx => by simp at hx, h.floor t⟩
  · exact List.mem_erase_of_ne hk
  · simp [h.tlistNodup.mem_erase_iff]
  · simp [h.fired, hst]

/-- Popping the head of EXPQ (R187). -/
theorem TimerInv.pop {s : State} {t : Nat} {ts : List Nat} {v : Option U32} (h : TimerInv s)
    (hq : s.expq = t :: ts) :
    TimerInv (slotSet t { slotAt s t with st := .idle } { s with expq := ts, popResult := v }) := by
  have hst : (slotAt s t).st = .fired := (h.fired t).mp (by simp [hq])
  have ht : t < s.timers.length := lt_of_slotAt_ne fun hu => by simp [hu, Slot.unused] at hst
  have hnd : t ∉ ts ∧ ts.Nodup := List.nodup_cons.mp (hq ▸ h.expqNodup)
  refine h.slotWrite ⟨ht, rfl, rfl, h.tlistNodup, hnd.2, fun _ _ => Iff.rfl, fun k hk => ?_, ?_, ?_,
    fun hx => by simp at hx, h.floor t⟩
  · simp [hq, hk]
  · simp [h.armed, hst]
  · simpa using hnd.1

/-- Firing a timer (R182). -/
theorem TimerInv.fire {s : State} {t : Nat} {r : Option U32} (h : TimerInv s)
    (ht : t < s.timers.length) :
    TimerInv (enqueueExpq t
      (slotSet t { slotAt s t with rem := r, st := .fired } (removeTlist t s))) := by
  have hq : queued (slotSet t { slotAt s t with rem := r, st := .fired } (removeTlist t s)) t =
      decide (t ∈ s.expq) := by
    simp [queued, h.tlistNodup.mem_erase_iff]
  rw [enqueueExpq_eq, hq]
  refine h.slotWrite ⟨ht, rfl, rfl, h.tlistNodup.erase t, ?_, fun k hk => List.mem_erase_of_ne hk,
    fun k hk => ?_, ?_, ?_, fun hx => by simp at hx, h.floor t⟩
  all_goals by_cases he : t ∈ s.expq
  · simpa [he] using h.expqNodup
  · simpa [he] using h.expqNodup.concat he
  · simp [he]
  · simp [he, hk]
  · simp [h.tlistNodup.mem_erase_iff]
  · simp [h.tlistNodup.mem_erase_iff]
  · simp [he]
  · simp [he]

/-- The walk's work on one timer keeps the invariant, whatever the timer (R182). -/
theorem TimerInv.tickSlot {s : State} (h : TimerInv s) (t : Nat) : TimerInv (tickSlot s t) := by
  unfold Machine.tickSlot
  split
  case h_1 => exact h
  case h_2 r hr =>
    have ht : t < s.timers.length := lt_of_slotAt_ne fun hu => by simp [hu, Slot.unused] at hr
    split
    · exact h.fire ht
    · exact h.slotWrite ⟨ht, rfl, rfl, h.tlistNodup, h.expqNodup, fun _ _ => Iff.rfl,
        fun _ _ => Iff.rfl, h.armed t, h.fired t,
        fun hx => ⟨rfl, (h.written t ((h.armed t).mpr hx)).2⟩, h.floor t⟩

theorem TimerInv.tickWalk {ks : List Nat} {s : State} (h : TimerInv s) :
    TimerInv (ks.foldl Machine.tickSlot s) := by
  induction ks generalizing s with
  | nil => exact h
  | cons k ks ih => exact ih (h.tickSlot k)

/-! ### Every step -/

theorem timerInv_resetWith (c : Config) : TimerInv (State.resetWith c) := by
  have hat : ∀ k, slotAt (State.resetWith c) k = Slot.unused := by
    intro k
    by_cases hk : k < c.timerCount <;>
      simp [slotAt, State.resetWith, List.getD_eq_getElem?_getD, hk]
  refine ⟨by simp [State.resetWith], List.nodup_nil, List.nodup_nil, fun k => ?_, fun k => ?_,
    fun k hk => ?_, fun k p hp => ?_⟩
  · rw [hat]
    simp [Slot.unused, State.resetWith]
  · rw [hat]
    simp [Slot.unused, State.resetWith]
  · cases hk
  · rw [hat] at hp
    cases hp

theorem TimerInv.effect {s t : State} {i : Instr} (h : TimerInv s) (he : Effect s i t) :
    TimerInv t := by
  have hslot : ∀ {k}, k < s.cfg.timerCount → k < s.timers.length := fun hk => by rwa [h.slots]
  cases he with
  | tmrStart hk hp =>
    refine h.armIdle (hslot hk) rfl rfl rfl fun q hq => ?_
    cases hq
    exact hp
  | tmrRestart hk hr => exact h.armIdle (hslot hk) rfl rfl (by simp [hr]) (h.floor _)
  | tmrStop _ hst => exact h.stop hst
  | tmrPop hq => exact h.pop hq
  | tick _ hwalk =>
    rw [← hwalk]
    exact TimerInv.tickWalk { h with }
  | fxTrigger | csSelect =>
    rw [armTransfer_eq]
    exact { h with }
  | linkWord =>
    rw [countWord_eq, shiftIn_eq]
    exact { h with }
  | nop | crcInit | crcCompute | crcStamp | crcCheck | fxRefresh | tmrStartShort | tmrStopOther
  | tmrPopEmpty | bufWrite | bufRead | csPin | csGlitch | csNoEdge | csDeselect | dmaTxStep
  | dmaRxStep | dmaTxIsr | dmaRxIsr => exact { h with }

theorem timerInv_stepKept : StepKept TimerInv where
  own _ _ h := { h with }
  latch _ _ h := { h with }
  reset _ := timerInv_resetWith _
  effect _ _ h he := h.effect he

/-- Settles O13: reset meets the invariant, and each timer step writes one slot and its place. -/
theorem timerInvariantIsKept : Obligations.TimerInvariantIsKept :=
  fun _ _ hs h => timerInv_stepKept.step hs h

end Sys2Proof.Machine
end

section
/-! The transfer invariant (R28 to R33, R35, R134, R141, R142, R147): what arming, the word counts, the
channels and the verification keep. -/

namespace Sys2Proof.Machine

/-! ### Arming and the channels -/

/-- A running channel counts one more word without wrapping: it runs on below XFER_LEN and is DONE exactly
there (R139, R140). -/
theorem channel_advances {c : Config} {idx : U32} {ch : Chan} (hv : configValid c = true)
    (hrun : ch = .run) (hlt : idx.toNat < c.xferLen) :
    (idx + 1).toNat ≤ c.xferLen ∧
      (chanAfter c (idx + 1) ch = .run → (idx + 1).toNat < c.xferLen) ∧
      (chanAfter c (idx + 1) ch = .done → (idx + 1).toNat = c.xferLen) ∧
      chanAfter c (idx + 1) ch ≠ .idle := by
  have hc := (configValid_iff c).mp hv
  have hadd : (idx + 1).toNat = idx.toNat + 1 := by
    rw [BitVec.toNat_add]
    exact Nat.mod_eq_of_lt (by simp; omega)
  have hch : chanAfter c (idx + 1) ch = if idx.toNat + 1 = c.xferLen then .done else .run := by
    simp only [chanAfter, hrun, ← BitVec.toNat_inj, hadd, xferCount_toNat hv]
  rw [hch, hadd]
  split
  case isTrue hlast => simp [hlast]
  case isFalse hmore =>
    simp only [true_implies, reduceCtorEq, false_implies, ne_eq, not_false_eq_true, and_true]
    omega

theorem TransferInv.armTransfer {s : State} (h : TransferInv s) (hv : configValid s.cfg = true) :
    TransferInv (armTransfer s) := by
  have hc := (configValid_iff _).mp hv
  have hpos : 0 < s.cfg.xferLen := by omega
  rw [armTransfer_eq]
  exact { h with
    txBound := Nat.zero_le _
    txRun := fun _ => hpos
    txDone := by simp
    txPend := by simp
    rxBound := Nat.zero_le _
    rxRun := fun _ => hpos
    rxDone := by simp
    rxPend := by simp
    rxEnabled := rfl }

theorem TransferInv.dmaTxStep {s : State} (h : TransferInv s) (hv : configValid s.cfg = true)
    (hrun : s.txCh = .run) (hroom : s.txFifo.length < s.cfg.txFifoDepth) :
    TransferInv { s with
      txFifo := s.txFifo ++ [bufGet s (txAddr s)]
      txIdx := s.txIdx + 1
      txCh := chanAfter s.cfg (s.txIdx + 1) s.txCh } := by
  obtain ⟨hle, hmore, hlast, hbusy⟩ := channel_advances hv hrun (h.txRun hrun)
  exact { h with
    txBound := hle
    txRun := hmore
    txDone := hlast
    txPend := iff_of_true (h.txPend.mpr (by simp [hrun])) hbusy
    txRoom := by simpa using hroom }

theorem TransferInv.dmaRxStep {s : State} (h : TransferInv s) (hv : configValid s.cfg = true)
    (hrun : s.rxCh = .run) :
    TransferInv { bufSet (rxAddr s) (s.rxFifo.headD 0) s with
      rxFifo := s.rxFifo.tail
      rxIdx := s.rxIdx + 1
      rxCh := chanAfter s.cfg (s.rxIdx + 1) s.rxCh } := by
  obtain ⟨hle, hmore, hlast, hbusy⟩ := channel_advances hv hrun (h.rxRun hrun)
  exact { h with
    rxBound := hle
    rxRun := hmore
    rxDone := hlast
    rxPend := iff_of_true (h.rxPend.mpr (by simp [hrun])) hbusy
    rxRoom := (List.tail_sublist s.rxFifo).length_le.trans h.rxRoom }

/-! ### The link -/

theorem TransferInv.shiftOut {s : State} (h : TransferInv s) : TransferInv (shiftOut s) :=
  { h with txRoom := (List.tail_sublist s.txFifo).length_le.trans h.txRoom }

theorem TransferInv.shiftIn {s : State} (h : TransferInv s) (p : Word) : TransferInv (shiftIn p s) := by
  unfold Machine.shiftIn
  split
  case isTrue hroom =>
    simp only [Bool.and_eq_true, decide_eq_true_eq] at hroom
    exact { h with rxRoom := by simpa using hroom.2 }
  case isFalse => exact h

theorem TransferInv.countWord {s : State} (h : TransferInv s)
    (hpos : s.cfg.role = .controller → 0 < s.ctlLeft.toNat) : TransferInv (countWord s) := by
  unfold Machine.countWord
  split
  case h_1 => exact h
  case h_2 hr =>
    have hle : (s.ctlLeft - 1).toNat ≤ s.ctlLeft.toNat := by
      have := hpos hr
      bv_omega
    exact { h with
      clocks := hle.trans h.clocks
      workerClocks := fun hw => nomatch hr.symm.trans hw }

theorem TransferInv.linkWord {s : State} {p : Word} (h : TransferInv s)
    (hactive : linkActive s = true) :
    TransferInv (Machine.countWord (Machine.shiftIn p (Machine.shiftOut s))) := by
  refine (h.shiftOut.shiftIn p).countWord ?_
  rw [shiftIn_eq]
  intro hr
  have hr' : s.cfg.role = .controller := hr
  have hleft : decide (0 < s.ctlLeft.toNat) = true := by simpa [linkActive, hr'] using hactive
  exact of_decide_eq_true hleft

/-! ### The verification -/

/-- MIS_MASK gets no bit at or above W (R35). -/
theorem TransferInv.recordCheck {s : State} {k : Nat} {ok : Bool} (h : TransferInv s)
    (hk : k < s.cfg.workers) : TransferInv (recordCheck k ok s) := by
  rw [recordCheck_eq]
  refine { h with mask := ?_ }
  cases ok with
  | true =>
    show (s.misMask &&& ~~~((1 : U32) <<< k)).toNat < 2 ^ s.cfg.workers
    rw [BitVec.toNat_and]
    exact lt_of_le_of_lt Nat.and_le_left h.mask
  | false =>
    show (s.misMask ||| ((1 : U32) <<< k)).toNat < 2 ^ s.cfg.workers
    rw [BitVec.toNat_or]
    refine Nat.or_lt_two_pow h.mask (lt_of_le_of_lt ?_ (Nat.pow_lt_pow_right one_lt_two hk))
    rw [BitVec.toNat_shiftLeft, Nat.shiftLeft_eq]
    exact (Nat.mod_le _ _).trans (by simp)

theorem TransferInv.endReception {s : State} (h : TransferInv s) : TransferInv (endReception s) :=
  { h with
    rxRun := by simp
    rxDone := by simp
    rxPend := by simp
    rxEnabled := rfl, rxRoom := Nat.zero_le _ }

theorem TransferInv.verifyReceived {s t : State} (h : TransferInv s)
    (hv : verifyReceived s = .ok t) : TransferInv t :=
  verifySlots_induction
    (fun _ hk _ _ hcfg hu => hu.recordCheck (hcfg ▸ List.mem_range.mp hk)) h
    (verifyReceived_ok.mp hv).2

/-! ### Every step -/

theorem transferInv_resetWith (c : Config) : TransferInv (State.resetWith c) where
  txBound := Nat.zero_le _
  txRun hr := nomatch hr
  txDone hd := nomatch hd
  txPend := by simp [State.resetWith]
  rxBound := Nat.zero_le _
  rxRun hr := nomatch hr
  rxDone hd := nomatch hd
  rxPend := by simp [State.resetWith]
  rxEnabled := rfl
  txRoom := Nat.zero_le _
  rxRoom := Nat.zero_le _
  clocks := Nat.zero_le _
  workerClocks _ := rfl
  controllerCs hc := by
    have hc' : c.role = .controller := hc
    simp [State.resetWith, hc']
  mask := Nat.two_pow_pos _

/-- What a chip-select step of a worker does to the pin, the notification and the level is free. -/
theorem TransferInv.workerCs {s : State} (h : TransferInv s) (hw : s.cfg.role = .worker)
    (pin irq last : Bool) :
    TransferInv { s with csPin := pin, csIrq := irq, lastLevel := last } :=
  { h with controllerCs := fun hc => nomatch hw.symm.trans hc }

theorem TransferInv.effect {s t : State} {i : Instr} (h : TransferInv s)
    (hv : configValid s.cfg = true) (he : Effect s i t) : TransferInv t := by
  cases he with
  | fxTrigger hc =>
    have harm := h.armTransfer hv
    have hcfg : (Machine.armTransfer s).cfg = s.cfg := by rw [armTransfer_eq]
    exact { harm with
      clocks := (xferCount_toNat hv).le.trans_eq (by rw [hcfg])
      workerClocks := fun hw => nomatch (hcfg ▸ hw).symm.trans hc }
  | csSelect hw => exact (h.workerCs hw _ _ _).armTransfer hv
  | csPin hw | csGlitch hw | csNoEdge hw => exact h.workerCs hw _ _ _
  | csDeselect hw => exact { h.workerCs hw s.csPin false true with }
  | linkWord hactive => exact h.linkWord hactive
  | dmaTxStep hrun hroom => exact h.dmaTxStep hv hrun hroom
  | dmaRxStep hrun => exact h.dmaRxStep hv hrun
  | dmaTxIsr =>
    exact { h with
      txRun := by simp
      txDone := by simp
      txPend := by simp }
  | dmaRxIsr _ hverified => exact h.endReception.verifyReceived hverified
  | tmrStart | tmrRestart =>
    rw [armIdle_eq]
    exact { h with }
  | nop | crcInit | crcCompute | crcStamp | crcCheck | fxRefresh | tmrStartShort | tmrStop
  | tmrStopOther | tmrPopEmpty | tmrPop | bufWrite | bufRead | tick => exact { h with }

theorem transferInv_stepKept : StepKept TransferInv where
  own _ _ h := { h with }
  latch _ _ h := { h with }
  reset _ := transferInv_resetWith _
  effect hv _ h he := h.effect hv he

/-- Settles O14: each completion keeps the bounds; the indices stop at XFER_LEN because the channel does. -/
theorem transferInvariantIsKept : Obligations.TransferInvariantIsKept :=
  fun _ _ hs h => transferInv_stepKept.step hs h

end Sys2Proof.Machine
end

section
/-! The counters, the latch and the CRC results (R34, R44, R151, R221, R22): every step keeps what they say. -/

namespace Sys2Proof.Machine

/-! ### The diagnostic counters -/

theorem DiagInv.noteOverrun {s : State} (h : DiagInv s) : DiagInv (noteOverrun s) := by
  unfold Machine.noteOverrun
  split
  · exact {
      overruns := by simp [h.overruns, BitVec.ofNat_add]
      mismatches := by simpa [isMismatch] using h.mismatches
      slots := by simpa using h.slots }
  · exact h

theorem DiagInv.armTransfer {s : State} (h : DiagInv s) : DiagInv (armTransfer s) :=
  { h.noteOverrun with }

theorem DiagInv.closeFrame {s : State} (h : DiagInv s) : DiagInv (closeFrame s) where
  overruns := by simpa using h.overruns
  mismatches := by simpa [isMismatch] using h.mismatches
  slots := by simpa using h.slots

theorem DiagInv.recordCheck {s : State} {k : Nat} {ok : Bool} (h : DiagInv s)
    (hk : k < s.cfg.workers) : DiagInv (recordCheck k ok s) := by
  unfold Machine.recordCheck
  split
  · exact { h with }
  · exact {
      overruns := by simpa using h.overruns
      mismatches := by simp [h.mismatches, isMismatch, BitVec.ofNat_add]
      slots := by
        intro j hj
        rcases List.mem_append.mp hj with hj | hj
        · exact h.slots j hj
        · cases List.mem_singleton.mp hj
          exact hk }

theorem DiagInv.verifyReceived {s t : State} (h : DiagInv s) (hv : verifyReceived s = .ok t) :
    DiagInv t :=
  verifySlots_induction
    (fun _ hk _ _ hcfg hu => hu.recordCheck (hcfg ▸ List.mem_range.mp hk)) h
    (verifyReceived_ok.mp hv).2

theorem diagInv_resetWith (c : Config) : DiagInv (State.resetWith c) :=
  ⟨rfl, rfl, fun _ hk => nomatch hk⟩

theorem DiagInv.effect {s t : State} {i : Instr} (h : DiagInv s) (he : Effect s i t) :
    DiagInv t := by
  cases he with
  | fxTrigger =>
    exact { h.armTransfer with }
  | csSelect => exact DiagInv.armTransfer { h with }
  | csDeselect => exact DiagInv.closeFrame { h with }
  | dmaRxIsr _ hverified =>
    have hend : DiagInv (endReception s) := { h with }
    exact hend.verifyReceived hverified
  | linkWord =>
    rw [countWord_eq, shiftIn_eq]
    exact { h with }
  | tmrStart | tmrRestart =>
    rw [armIdle_eq]
    exact { h with }
  | nop | crcInit | crcCompute | crcStamp | crcCheck | fxRefresh | tmrStartShort | tmrStop
  | tmrStopOther | tmrPopEmpty | tmrPop | bufWrite | bufRead | tick | csPin | csGlitch | csNoEdge
  | dmaTxStep | dmaRxStep | dmaTxIsr => exact { h with }

theorem diagInv_stepKept : StepKept DiagInv where
  own _ _ h := { h with }
  latch _ _ h := { h with }
  reset _ := diagInv_resetWith _
  effect _ _ h he := h.effect he

/-! ### The latch and the CRC results -/

/-- Every cause has a code of R221's table. -/
theorem faultCode_bounds (k : FaultKind) : 1 ≤ (faultCode k).toNat ∧ (faultCode k).toNat ≤ 9 := by
  cases k <;> decide

theorem LatchInv.raiseFault {s : State} {op : Byte} {x : Trap} (h : LatchInv s) :
    LatchInv (raiseFault op x s) :=
  { h with
    clear := by simp
    coded := fun _ => faultCode_bounds x.kind }

theorem latchInv_resetWith (c : Config) : LatchInv (State.resetWith c) where
  clear _ := ⟨rfl, rfl, rfl⟩
  coded hf := nomatch hf
  results hr := nomatch hr
  matchResult hr := nomatch hr

theorem LatchInv.effect {s t : State} {i : Instr} (h : LatchInv s) (he : Effect s i t) :
    LatchInv t := by
  cases he with
  | crcInit => exact { h with results := fun _ => rfl, matchResult := fun _ => rfl }
  | crcCompute _ built | crcStamp _ built => exact { h with results := fun _ => built }
  | crcCheck _ built => exact { h with results := fun _ => built, matchResult := fun _ => built }
  | fxTrigger | csSelect =>
    rw [armTransfer_eq]
    exact { h with }
  | linkWord =>
    rw [countWord_eq, shiftIn_eq]
    exact { h with }
  | tmrStart | tmrRestart =>
    rw [armIdle_eq]
    exact { h with }
  | nop | fxRefresh | tmrStartShort | tmrStop | tmrStopOther | tmrPopEmpty | tmrPop | bufWrite
  | bufRead | tick | csPin | csGlitch | csNoEdge | csDeselect | dmaTxStep | dmaRxStep | dmaTxIsr
  | dmaRxIsr => exact { h with }

theorem latchInv_stepKept : StepKept LatchInv where
  own _ _ h := { h with }
  latch _ _ h := h.raiseFault
  reset _ := latchInv_resetWith _
  effect _ _ h he := h.effect he

/-- Settles O16: a counter grows with its record, a fault entry latches a code of the table, and the CRC
commands run only with the table built. -/
theorem countersAndLatchAgreeWithTheirRules : Obligations.CountersAndLatchAgreeWithTheirRules :=
  fun _ _ hd hl h => ⟨diagInv_stepKept.step hd h, latchInv_stepKept.step hl h⟩

/-! ### Reset -/

theorem bufferInv_resetWith (c : Config) : BufferInv (State.resetWith c) :=
  ⟨rfl, fun _ ha => nomatch ha⟩

theorem inv_resetWith {c : Config} (hc : configValid c = true) : Inv (State.resetWith c) where
  config := hc
  timer := timerInv_resetWith c
  transfer := transferInv_resetWith c
  buffer := bufferInv_resetWith c
  diag := diagInv_resetWith c
  latch := latchInv_resetWith c

/-- Settles O12, for every legal configuration and so for `Config.standard`. -/
theorem resetMeetsTheInvariants : Obligations.ResetMeetsTheInvariants :=
  ⟨fun _ hc => inv_resetWith hc, inv_resetWith (by decide)⟩

end Sys2Proof.Machine
end

section
/-! The model's own stops (log entry 10): only a channel outside the buffer or a listed timer without REM
stops the model, and the invariants exclude both. -/

namespace Sys2Proof.Machine

/-- The states in which the model stops. -/
inductive Stops (s : State) : Prop
  | transmit (run : s.txCh = .run) (outside : bufWords s.cfg ≤ txAddr s)
  | receive (run : s.rxCh = .run) (outside : bufWords s.cfg ≤ rxAddr s)
  | walk (unwritten : armedWritten s = false)

theorem settle_ne_fault {op : Byte} {s : State} {x : Except Trap State} {r : Fault} :
    settle op s x ≠ .fault r := by
  cases x <;> simp

theorem command_ne_fault {op : Byte} {body : State → Except Trap State} {s : State} {r : Fault} :
    command op body s ≠ .fault r := by
  obtain ⟨t, ht⟩ := command_total op body s
  simp [ht]

theorem event_fault {en : State → Bool} {body : State → Out} {s : State} {r : Fault}
    (h : event en body s = .fault r) : en s = true ∧ body s = .fault r := by
  unfold event at h
  split at h
  · rename_i hc
    simp only [Bool.and_eq_true] at hc
    exact ⟨hc.2, h⟩
  · cases h

theorem execRegRead_ne_fault {a : Nat} {s : State} {r : Fault} : execRegRead a s ≠ .fault r := by
  unfold execRegRead
  split
  · simp
  · split <;> simp

theorem execCsPin_ne_fault {l : Bool} {s : State} {r : Fault} : execCsPin l s ≠ .fault r :=
  fun h => nomatch (event_fault h).2

theorem execCsGlitch_ne_fault {s : State} {r : Fault} : execCsGlitch s ≠ .fault r :=
  fun h => nomatch (event_fault h).2

theorem execCsIsr_ne_fault {s : State} {r : Fault} : execCsIsr s ≠ .fault r :=
  fun h => nomatch (event_fault h).2

theorem execLinkWord_ne_fault {p : Word} {s : State} {r : Fault} : execLinkWord p s ≠ .fault r :=
  fun h => nomatch (event_fault h).2

theorem execDmaTxIsr_ne_fault {s : State} {r : Fault} : execDmaTxIsr s ≠ .fault r :=
  fun h => nomatch (event_fault h).2

theorem execDmaRxIsr_ne_fault {s : State} {r : Fault} : execDmaRxIsr s ≠ .fault r :=
  fun h => settle_ne_fault (event_fault h).2

theorem execTick_fault {s : State} {r : Fault} (h : execTick s = .fault r) : Stops s := by
  obtain ⟨-, h⟩ := event_fault h
  split at h <;> rename_i hw <;> cases h
  exact .walk (Bool.eq_false_of_not_eq_true hw)

theorem execDmaTxStep_fault {s : State} {r : Fault} (h : execDmaTxStep s = .fault r) : Stops s := by
  obtain ⟨he, h⟩ := event_fault h
  simp only [Bool.and_eq_true, decide_eq_true_eq] at he
  split at h <;> rename_i ha <;> cases h
  exact .transmit he.1 (Nat.le_of_not_lt ha)

theorem execDmaRxStep_fault {s : State} {r : Fault} (h : execDmaRxStep s = .fault r) : Stops s := by
  obtain ⟨he, h⟩ := event_fault h
  simp only [Bool.and_eq_true, decide_eq_true_eq] at he
  split at h <;> rename_i ha <;> cases h
  exact .receive he.1 (Nat.le_of_not_lt ha)

theorem exec_fault {i : Instr} {s : State} {r : Fault} (h : exec i s = .fault r) : Stops s := by
  cases hi : isEvent i with
  | false =>
    obtain ⟨body, hc⟩ := exec_of_command hi
    rw [hc] at h
    exact absurd h command_ne_fault
  | true =>
    cases i with
    | nop | crcInit | crcCompute | crcStamp | crcCheck | fxRefresh | fxTrigger | tmrStart | tmrStop
    | tmrRestart | tmrPop | bufWrite | bufRead => cases hi
    | csPin => exact absurd h execCsPin_ne_fault
    | csGlitch => exact absurd h execCsGlitch_ne_fault
    | csIsr => exact absurd h execCsIsr_ne_fault
    | linkWord => exact absurd h execLinkWord_ne_fault
    | dmaTxIsr => exact absurd h execDmaTxIsr_ne_fault
    | dmaRxIsr => exact absurd h execDmaRxIsr_ne_fault
    | regRead => exact absurd h execRegRead_ne_fault
    | tick => exact execTick_fault h
    | dmaTxStep => exact execDmaTxStep_fault h
    | dmaRxStep => exact execDmaRxStep_fault h

theorem takeCommand_fault {w : CmdWord} {s : State} {r : Fault}
    (h : takeCommand w s = .fault r) : Stops s := by
  unfold takeCommand at h
  split at h
  · exact absurd h command_ne_fault
  · split at h
    · exact exec_fault h
    · exact absurd h command_ne_fault
    · exact absurd h command_ne_fault

theorem takeLabel_fault {w : CmdWord} {s : State} {r : Fault} (h : takeLabel w s = .fault r) :
    Stops s := by
  unfold takeLabel at h
  split at h
  · split at h
    · exact exec_fault h
    · cases h
  · cases h
  · cases h

theorem take_fault {x : Stimulus} {s : State} {r : Fault} (h : take x s = .fault r) : Stops s := by
  cases x with
  | command w => exact takeCommand_fault h
  | label w => exact takeLabel_fault h
  | reset => cases h

/-- A running channel's address lies in its region, a listed timer has its REM. -/
theorem Inv.not_stops {s : State} (h : Inv s) : ¬ Stops s := by
  have hc := (configValid_iff _).mp h.config
  rintro (⟨hrun, hout⟩ | ⟨hrun, hout⟩ | hw)
  · have := h.transfer.txRun hrun
    unfold txAddr at hout
    omega
  · have := h.transfer.rxRun hrun
    unfold rxAddr at hout
    omega
  · have hall : armedWritten s = true :=
      List.all_eq_true.mpr fun t ht => (h.timer.written t ht).1
    exact Bool.false_ne_true (hw.symm.trans hall)

/-- Settles O17: a step stops only in a state that `Stops` lists, and the invariants exclude them. -/
theorem modelStopsAreUnreachable : Obligations.ModelStopsAreUnreachable := by
  intro s r h hs
  cases hi : s.inputs with
  | nil =>
    rw [step_nil h.config hi] at hs
    cases hs
  | cons x rest =>
    rw [step_cons h.config hi] at hs
    have hrest : Inv { s with inputs := rest } :=
      ⟨h.config, { h.timer with }, { h.transfer with }, { h.buffer with }, { h.diag with },
        { h.latch with }⟩
    exact hrest.not_stops (take_fault hs)

end Sys2Proof.Machine
end

section
/-! The register read port (R45 to R48, R221, R224): REG.READ answers the value of `regValue`, and what that
value is for each register. -/

namespace Sys2Proof.Machine

/-! ### REG.READ -/

theorem exec_regRead_of_some {s : State} {r : Nat} {v : U32} (h : regValue s r = some v) :
    exec (.regRead r) s = .next { s with readOut := some v } := by
  change execRegRead r s = _
  simp only [execRegRead, h]

theorem exec_regRead_of_none {s : State} {r : Nat} (h : regValue s r = none) :
    (s.faulted = false →
      exec (.regRead r) s = .next { latched 0x07 0x90 r s with readOut := none }) ∧
    (s.faulted = true → exec (.regRead r) s = .next { s with readOut := none }) := by
  change (_ → execRegRead r s = _) ∧ (_ → execRegRead r s = _)
  simp only [execRegRead, h]
  refine ⟨fun hf => ?_, fun hf => if_pos hf⟩
  rw [if_neg (by simp [hf]), ← latched_eq]
  rfl

/-! ### The timer registers -/

theorem regValue_timer (s : State) (k : Nat) : regValue s (k + 0x10) = timerReg s k := rfl

/-- The registers of slot t in the map (R46). -/
theorem regValue_slot {s : State} {t : Nat} (ht : t < s.cfg.timerCount) :
    regValue s (0x10 + 3 * t) = some ((timerCode (slotAt s t).st).setWidth 32) ∧
      regValue s (0x11 + 3 * t) = (slotAt s t).rem ∧
      regValue s (0x12 + 3 * t) = (slotAt s t).rld := by
  have hreg : ∀ j < 3, regValue s (0x10 + j + 3 * t) =
      if j = 0 then some ((timerCode (slotAt s t).st).setWidth 32)
      else if j = 1 then (slotAt s t).rem else (slotAt s t).rld := by
    intro j hj
    have hdiv : (j + 3 * t) / 3 = t := by omega
    have hmod : (j + 3 * t) % 3 = j := by omega
    rw [show 0x10 + j + 3 * t = j + 3 * t + 0x10 by omega, regValue_timer]
    simp only [timerReg, hdiv, hmod, if_pos ht]
    interval_cases j <;> rfl
  exact ⟨hreg 0 (by decide), hreg 1 (by decide), hreg 2 (by decide)⟩

/-- An address outside the map reads 0 (R45). -/
theorem regValue_past {s : State} {r : Nat} (hr : 0x10 + 3 * s.cfg.timerCount ≤ r) :
    regValue s r = some 0 := by
  obtain ⟨k, rfl⟩ := Nat.exists_eq_add_of_le' (show 0x10 ≤ r by omega)
  have hk : ¬ k / 3 < s.cfg.timerCount := by omega
  rw [regValue_timer, timerReg]
  exact if_neg hk

/-! ### The packed registers -/

/-- MIS_MASK shows bits W−1:0 and zeros above (R46). -/
theorem misMaskReg_getLsbD (s : State) (k : Nat) :
    (misMaskReg s).getLsbD k = (decide (k < s.cfg.workers) && s.misMask.getLsbD k) := by
  rw [misMaskReg, BitVec.getLsbD_and, BitVec.getLsbD_ofNat, Nat.testBit_two_pow_sub_one]
  by_cases hk : k < 32
  · simp [hk, Bool.and_comm]
  · simp [BitVec.getLsbD_of_ge _ _ (Nat.le_of_not_lt hk)]

/-- FAULT, bit by bit (R46). -/
theorem faultReg_getLsbD (s : State) (i : Nat) :
    (faultReg s).getLsbD i =
      if i < 8 then s.fcode.getLsbD i
      else if i - 8 < 8 then s.fop.getLsbD (i - 8) else s.farg.getLsbD (i - 8 - 8) := by
  change BitVec.getLsbD (w := 16 + 8 + 8) (s.farg ++ s.fop ++ s.fcode) i = _
  rw [BitVec.getLsbD_append, BitVec.getLsbD_append]

/-- FAULT packs the latch (R46). -/
theorem faultReg_fields (s : State) :
    (faultReg s).extractLsb' 0 8 = s.fcode ∧ (faultReg s).extractLsb' 8 8 = s.fop ∧
      (faultReg s).extractLsb' 16 16 = s.farg := by
  refine ⟨?_, ?_, ?_⟩ <;> refine BitVec.eq_of_getLsbD_eq fun i hi => ?_ <;>
    rw [BitVec.getLsbD_extractLsb', faultReg_getLsbD]
  · simp [hi]
  · simp [hi]
  · rw [if_neg (by omega), if_neg (by omega), decide_eq_true hi, Bool.true_and]
    congr 1
    omega

/-- Settles O57: each register's value is `regValue`'s, the slots' by `regValue_slot`. -/
theorem registerMapReads : Obligations.RegisterMapReads := by
  intro s reads
  refine ⟨fun c hc => ?_, exec_regRead_of_some rfl, exec_regRead_of_some rfl,
    ⟨_, exec_regRead_of_some rfl, misMaskReg_getLsbD s⟩, exec_regRead_of_some rfl,
    exec_regRead_of_some rfl, exec_regRead_of_some rfl,
    ⟨_, exec_regRead_of_some rfl, faultReg_fields s⟩, fun hq => ?_, fun t ts hq => ?_,
    fun v hv => exec_regRead_of_some hv, fun d hd => ?_, exec_regRead_of_some rfl,
    exec_regRead_of_some rfl, exec_regRead_of_some rfl, exec_regRead_of_some rfl,
    fun t ht => ?_, fun r hr => exec_regRead_of_some (regValue_past hr)⟩
  · exact exec_regRead_of_some (by simp [regValue, hc])
  · exact exec_regRead_of_some (by simp [regValue, expqHead, noSlot, hq])
  · exact exec_regRead_of_some (by simp [regValue, expqHead, hq])
  · exact exec_regRead_of_some (by simp [regValue, hd])
  · obtain ⟨hst, hrem, hrld⟩ := regValue_slot ht
    refine ⟨exec_regRead_of_some (hst.trans ?_), fun v hv => exec_regRead_of_some (hrem.trans hv),
      fun v hv => exec_regRead_of_some (hrld.trans hv)⟩
    cases (slotAt s t).st <;> rfl

/-- Settles O59: each of the five registers has no value where its element is unwritten. -/
theorem unwrittenRegisterReadsFault : Obligations.UnwrittenRegisterReadsFault := by
  intro s r h
  refine exec_regRead_of_none ?_
  rcases h with ⟨rfl, h⟩ | ⟨rfl, h⟩ | ⟨rfl, h⟩ | ⟨t, ht, ⟨rfl, h⟩ | ⟨rfl, h⟩⟩
  · simp [regValue, h]
  · exact h
  · simp [regValue, h]
  · exact (regValue_slot ht).2.1.trans h
  · exact (regValue_slot ht).2.2.trans h

/-! ### STATUS -/

/-- The two bits of a channel's state in STATUS (R48). -/
theorem status_channels (s : State) :
    (status s).extractLsb' 8 2 = chanCode s.txCh ∧ (status s).extractLsb' 10 2 = chanCode s.rxCh := by
  constructor <;> refine BitVec.eq_of_getLsbD_eq fun i hi => ?_ <;>
    rw [BitVec.getLsbD_extractLsb', status_getLsbD] <;> interval_cases i <;> rfl

/-- The window as R47 writes it. -/
theorem window_eq (s : State) :
    window s = decide ((s.cfg.role = .worker ∧ s.lastLevel = false) ∨ s.txCh = .run ∨
      s.rxCh = .run ∨ (s.cfg.role = .controller ∧ 0 < s.ctlLeft.toNat)) := by
  rw [Bool.eq_iff_iff, decide_eq_true_iff]
  cases hr : s.cfg.role with
  | worker => simp [window, hr, or_assoc]
  | controller =>
    simp only [window, hr, Bool.or_eq_true, decide_eq_true_eq, reduceCtorEq, false_and, false_or,
      true_and]
    tauto

/-- STATUS at reset (R48). -/
theorem status_resetWith (c : Config) :
    status (State.resetWith c) =
      if c.role = .worker ∧ c.csPinInit = false then 0x00000010 else 0x00002010 := by
  cases hr : c.role <;> cases hp : c.csPinInit <;>
    simp [status, window, statusCsPin, statusLastLevel, State.resetWith, expqNonempty, chanCode, hr, hp]

/-- Settles O58, from `status_getLsbD` and the shape of each predicate STATUS shows. -/
theorem statusShowsTheFlags : Obligations.StatusShowsTheFlags := by
  refine ⟨fun s => ⟨status s, exec_regRead_of_some rfl, ?_⟩, status_resetWith⟩
  obtain ⟨htx, hrx⟩ := status_channels s
  simp only [status_getLsbD]
  refine ⟨rfl, rfl, rfl, rfl, ?_, rfl, ?_, rfl, htx.trans ?_, hrx.trans ?_, ?_, ?_, ?_, fun k hk => ?_⟩
  · cases hr : s.cfg.role <;> simp [statusLastLevel, hr]
  · change s.crcMatch.getD false = decide (s.crcMatch = some true)
    rcases s.crcMatch with _ | _ | _ <;> rfl
  · cases s.txCh <;> rfl
  · cases s.rxCh <;> rfl
  · change expqNonempty s = decide (s.expq ≠ [])
    cases hq : s.expq <;> simp [expqNonempty, hq]
  · cases hr : s.cfg.role <;> simp [statusCsPin, hr]
  · exact window_eq s
  · obtain ⟨j, rfl⟩ := Nat.exists_eq_add_of_le' hk
    simp

end Sys2Proof.Machine
end

section
/-! The shared buffer (R50, R68): its invariant and R63's rule, both from one fact, that a command stores a
word only inside the buffer and only where no race is. -/

namespace Sys2Proof.Machine

/-- What every race-free store inside the buffer keeps, a whole stamping keeps (R144). -/
theorem stampChunks_induction {P : State → Prop} {ks : List Nat} {s t : State}
    (hset : ∀ {u a} v, a < bufWords u.cfg → writeRace u a = false → P u → P (bufSet a v u)) (hs : P s)
    (h : stampChunks ks s = .ok t) : P t := by
  induction ks generalizing s with
  | nil =>
    cases h
    exact hs
  | cons k ks ih =>
    obtain ⟨c, u, hu, hks⟩ := stampChunks_cons.mp h
    obtain ⟨ws, -, -, hw⟩ := stampChunk_ok.mp hu
    obtain ⟨hfree, hin, rfl⟩ := cmdWrite_ok.mp hw
    exact ih (hset _ hin hfree hs) hks

/-! ### The buffer invariant -/

theorem BufferInv.bufSet {s : State} {a : Nat} (h : BufferInv s) (v : Word)
    (ha : a < bufWords s.cfg) : BufferInv (bufSet a v s) where
  canonical := Memory.set_wf a v h.canonical
  inside x hx := by
    by_cases hxa : x = a
    · exact hxa ▸ ha
    · rw [bufGet_bufSet_other v s hxa] at hx
      exact h.inside x hx

theorem BufferInv.effect {s t : State} {i : Instr} (h : BufferInv s) (he : Effect s i t) :
    BufferInv t := by
  cases he with
  | bufWrite inside => exact h.bufSet _ inside
  | crcStamp _ _ _ inside => exact { h.bufSet _ inside with }
  | dmaRxStep _ _ inside => exact { h.bufSet _ inside with }
  | fxRefresh _ stamps =>
    exact { stampChunks_induction (P := BufferInv) (fun v hin _ hu => hu.bufSet v hin) h stamps with }
  | fxTrigger | csSelect =>
    rw [armTransfer_eq]
    exact { h with }
  | linkWord =>
    rw [countWord_eq, shiftIn_eq]
    exact { h with }
  | tmrStart | tmrRestart =>
    rw [armIdle_eq]
    exact { h with }
  | nop | crcInit | crcCompute | crcCheck | tmrStartShort | tmrStop | tmrStopOther | tmrPopEmpty
  | tmrPop | bufRead | tick | csPin | csGlitch | csNoEdge | csDeselect | dmaTxStep | dmaTxIsr
  | dmaRxIsr => exact { h with }

theorem bufferInv_stepKept : StepKept BufferInv where
  own _ _ h := { h with }
  latch _ _ h := { h with }
  reset _ := bufferInv_resetWith _
  effect _ _ h he := h.effect he

/-- Settles O15: the steps that store a word check its address, and a store keeps the list rising. -/
theorem bufferStaysCanonicalAndInside : Obligations.BufferStaysCanonicalAndInside :=
  fun _ _ hs h => bufferInv_stepKept.step hs h

/-! ### The frame regions in the window -/

/-- While the window is open, a store without a race misses both regions (R63). -/
theorem bufGet_bufSet_of_no_race {s : State} {a b : Nat} {v : Word} (hwin : window s = true)
    (ha : inTxr s.cfg a = true ∨ inRxr s.cfg a = true) (hfree : writeRace s b = false) :
    bufGet (bufSet b v s) a = bufGet s a := by
  refine bufGet_bufSet_other v s ?_
  rintro rfl
  have hrace : writeRace s a = true := by simpa [writeRace, hwin] using ha
  exact Bool.false_ne_true (hfree.symm.trans hrace)

/-- u still has the open window of s, and the word at a. -/
structure RegionWordKept (s : State) (a : Nat) (u : State) : Prop where
  opened : window u = true
  config : u.cfg = s.cfg
  word : bufGet u a = bufGet s a

theorem RegionWordKept.bufSet {s u : State} {a b : Nat} (h : RegionWordKept s a u) (v : Word)
    (ha : inTxr s.cfg a = true ∨ inRxr s.cfg a = true) (hfree : writeRace u b = false) :
    RegionWordKept s a (bufSet b v u) where
  opened := h.opened
  config := h.config
  word := (bufGet_bufSet_of_no_race h.opened (h.config ▸ ha) hfree).trans h.word

/-- The stamping of FX.REFRESH checks each header against the same window (R144). -/
theorem bufGet_stampChunks {ks : List Nat} {s t : State} {a : Nat} (hwin : window s = true)
    (ha : inTxr s.cfg a = true ∨ inRxr s.cfg a = true) (h : stampChunks ks s = .ok t) :
    bufGet t a = bufGet s a := by
  have hkept : RegionWordKept s a t :=
    stampChunks_induction (fun v _ hfree hu => hu.bufSet v ha hfree) ⟨hwin, rfl, rfl⟩ h
  exact hkept.word

/-- Settles O46: BUF.WRITE, CRC.STAMP and FX.REFRESH store without a race only, and no other command stores
a word. -/
theorem noCommandWritesFrameRegionsInTheWindow :
    Obligations.NoCommandWritesFrameRegionsInTheWindow := by
  intro i s t hi hwin h a ha
  cases exec_next h with
  | ignored | raised => rfl
  | read source | readStuck source | readRaised source =>
    rw [source] at hi
    cases hi
  | completed _ he =>
    cases he with
    | bufWrite _ free | crcStamp _ _ _ _ free => exact bufGet_bufSet_of_no_race hwin ha free
    | fxRefresh _ stamps =>
      have hstamped := bufGet_stampChunks hwin ha stamps
      exact hstamped
    | fxTrigger => simp [armTransfer_eq, bufGet]
    | tmrStart | tmrRestart => simp [armIdle_eq, bufGet]
    | nop | crcInit | crcCompute | crcCheck | tmrStartShort | tmrStop | tmrStopOther | tmrPopEmpty
    | tmrPop | bufRead => rfl
    | tick | csPin | csGlitch | csNoEdge | csDeselect | csSelect | linkWord | dmaTxStep | dmaRxStep
    | dmaTxIsr | dmaRxIsr => cases hi

end Sys2Proof.Machine
end

section
/-! The chunks of the buffer (R56): where each begins, which lie where, and what FX.REFRESH does to the owned
ones (R60, R144). -/

namespace Sys2Proof.Machine

/-! ### The tiling -/

/-- Different chunks have different headers. -/
theorem headerAddr_inj {c : Config} {j k : Nat} (hC : 1 ≤ c.chunk) :
    headerAddr c j = headerAddr c k ↔ j = k :=
  Nat.mul_left_inj (Nat.ne_of_gt hC)

/-- The chunk a word lies in is the quotient of its address by C. -/
theorem in_chunk_iff {c : Config} {a k : Nat} (hC : 1 ≤ c.chunk) :
    (k * c.chunk ≤ a ∧ a < k * c.chunk + c.chunk) ↔ k = a / c.chunk := by
  rw [eq_comm, Nat.div_eq_iff hC]
  omega

/-- Every chunk index is the measurement or the setpoint chunk of a worker. -/
theorem exists_worker_of_chunk {c : Config} {k : Nat} (hk : k < 2 * c.workers) :
    ∃ w < c.workers, k = measChunk c w ∨ k = setChunk c w := by
  have hsplit : ∃ w < c.workers, k = w ∨ k = c.workers + w := by
    rcases Nat.lt_or_ge k c.workers with hlt | hge
    · exact ⟨k, hlt, .inl rfl⟩
    · exact ⟨k - c.workers, by omega, .inr (by omega)⟩
  obtain ⟨w, hw, h⟩ := hsplit
  refine ⟨w, hw, ?_⟩
  cases hr : c.role with
  | worker => simpa [measChunk, setChunk, hr] using h
  | controller => simpa [measChunk, setChunk, hr] using h.symm

/-- The workers' measurement and setpoint chunks are all different. -/
theorem worker_chunks_distinct {c : Config} {v w : Nat} (hv : v < c.workers) (hw : w < c.workers) :
    measChunk c v ≠ setChunk c w ∧ (measChunk c v = measChunk c w → v = w) ∧
      (setChunk c v = setChunk c w → v = w) := by
  cases hr : c.role <;> simp only [measChunk, setChunk, hr] <;> omega

/-- Settles O45: the pointers are headers of different chunks, and the chunk of a word is a quotient. -/
theorem chunksTileTheBuffer : Obligations.ChunksTileTheBuffer := by
  intro c hv
  obtain ⟨-, -, hC, -⟩ := (configValid_iff c).mp hv
  refine ⟨fun w => ⟨fun hr => ?_, fun hr => ?_⟩, fun a ha => ?_, fun v hv w hw => ?_⟩
  · simp [measPtr, setPtr, chunkBase, measChunk, setChunk, hr]
  · simp [measPtr, setPtr, chunkBase, measChunk, setChunk, hr]
  · have hk : a / c.chunk < 2 * c.workers := (Nat.div_lt_iff_lt_mul hC).mpr ha
    obtain ⟨hlo, hhi⟩ := (in_chunk_iff hC).mpr (Eq.refl (a / c.chunk))
    exact ⟨a / c.chunk, hk, exists_worker_of_chunk hk, hlo, hhi,
      fun k' hlo' hhi' => (in_chunk_iff hC).mp ⟨hlo', hhi'⟩⟩
  · have hinj : ∀ j k, chunkBase c j = chunkBase c k ↔ j = k := fun _ _ => headerAddr_inj hC
    simp only [measPtr, setPtr, ne_eq, hinj]
    exact worker_chunks_distinct hv hw

/-! ### The refresh -/

theorem ownedChunks_worker {c : Config} (hr : c.role = .worker) : ownedChunks c = [c.workerId] := by
  simp [ownedChunks, measChunk, hr]

theorem ownedChunks_controller {c : Config} (hr : c.role = .controller) :
    ownedChunks c = List.range c.workers := by
  have hset : setChunk c = id := funext fun w => by simp [setChunk, hr]
  simp [ownedChunks, hset, hr]

theorem lt_of_mem_ownedChunks {c : Config} {k : Nat} (hv : configValid c = true)
    (hk : k ∈ ownedChunks c) : k < 2 * c.workers := by
  obtain ⟨hW, -, -, -, hid, -⟩ := (configValid_iff c).mp hv
  cases hr : c.role with
  | worker =>
    rw [ownedChunks_worker hr, List.mem_singleton] at hk
    have := hid hr
    omega
  | controller =>
    rw [ownedChunks_controller hr, List.mem_range] at hk
    omega

/-- FX.REFRESH may stamp chunk k: it can read the payload and write the header (R144). -/
def Stampable (s : State) (k : Nat) : Prop :=
  (∀ x ∈ payloadAddrs s.cfg k, Readable s x) ∧ writeRace s (headerAddr s.cfg k) = false

/-- Writing a header leaves every payload as it was. -/
theorem bufGet_payload_of_header {s : State} {j k x : Nat} {v : Word}
    (hx : x ∈ payloadAddrs s.cfg k) : bufGet (bufSet (headerAddr s.cfg j) v s) x = bufGet s x :=
  bufGet_bufSet_other v s fun h => headerAddr_not_payload s.cfg j k (h ▸ hx)

theorem payloadOf_of_header {s : State} {j k : Nat} {v : Word} :
    payloadOf (bufSet (headerAddr s.cfg j) v s) k = payloadOf s k :=
  List.map_congr_left fun _ hx => congrArg (·.getD 0) (bufGet_payload_of_header (s := s) hx)

theorem Stampable.of_header {s : State} {j k : Nat} {v : Word} (h : Stampable s k) :
    Stampable (bufSet (headerAddr s.cfg j) v s) k := by
  obtain ⟨hread, hfree⟩ := h
  refine ⟨fun x hx => ?_, hfree⟩
  obtain ⟨hrace, hwritten⟩ := hread x hx
  exact ⟨hrace, by rwa [bufGet_payload_of_header (s := s) hx]⟩

/-- Stampable chunks are stamped one after the other, and each stamp leaves the others' payloads alone. -/
theorem stampChunks_stampable {ks : List Nat} {s : State} (hC : 1 ≤ s.cfg.chunk)
    (hks : ∀ k ∈ ks, k < 2 * s.cfg.workers) (h : ∀ k ∈ ks, Stampable s k) :
    ∃ t, stampChunks ks s = .ok t ∧
      (∀ k ∈ ks, bufGet t (headerAddr s.cfg k) = some (crcWords (payloadOf s k))) ∧
      ∀ x, (∀ k ∈ ks, x ≠ headerAddr s.cfg k) → bufGet t x = bufGet s x := by
  induction ks generalizing s with
  | nil => exact ⟨s, rfl, by simp, fun _ _ => rfl⟩
  | cons k ks ih =>
    simp only [List.forall_mem_cons] at hks h
    obtain ⟨hread, hfree⟩ := h.1
    have hstamp := stampChunk_readable hks.1 hC hread hfree
    obtain ⟨t, ht, hheaders, hothers⟩ :=
      ih (s := bufSet (headerAddr s.cfg k) (crcWords (payloadOf s k)) s) hC hks.2
        fun j hj => (h.2 j hj).of_header
    simp only [payloadOf_of_header] at hheaders
    refine ⟨t, stampChunks_cons.mpr ⟨_, _, hstamp, ht⟩, ?_, fun x hx => ?_⟩
    · refine List.forall_mem_cons.mpr ⟨?_, hheaders⟩
      by_cases hk : k ∈ ks
      · exact hheaders k hk
      · have hnew : ∀ j ∈ ks, headerAddr s.cfg k ≠ headerAddr s.cfg j :=
          fun j hj heq => hk ((headerAddr_inj hC).mp heq ▸ hj)
        rw [hothers _ hnew, bufGet_bufSet_same]
    · obtain ⟨hxk, hxs⟩ := List.forall_mem_cons.mp hx
      rw [hothers x hxs, bufGet_bufSet_other _ _ hxk]

/-- FX.REFRESH completes where its stamping does (R144). -/
theorem exec_fxRefresh_of_stamps {s t : State} (hf : s.faulted = false) (hb : s.tableValid = true)
    (h : stampChunks (ownedChunks s.cfg) s = .ok t) :
    exec .fxRefresh s = .next { t with live := !t.live } := by
  change execFxRefresh s = _
  rw [execFxRefresh, command_running hf]
  simp [checkTable, require, hb, h, bind, Except.bind]

/-- Settles O39: the owned chunks are stampable, and the stamping writes their headers only. -/
theorem refreshStampsTheOwnedChunks : Obligations.RefreshStampsTheOwnedChunks := by
  intro s hv hf hb owned h
  have howned : owned = ownedChunks s.cfg := by
    cases hr : s.cfg.role with
    | worker => simp only [owned, hr, ownedChunks_worker hr]
    | controller => simp only [owned, hr, ownedChunks_controller hr]
  rw [howned] at h ⊢
  obtain ⟨-, -, hC, -⟩ := (configValid_iff s.cfg).mp hv
  obtain ⟨t, ht, hheaders, hothers⟩ :=
    stampChunks_stampable hC (fun k hk => lt_of_mem_ownedChunks hv hk) h
  obtain ⟨m, rfl⟩ := stampChunks_frame ht
  exact ⟨_, exec_fxRefresh_of_stamps hf hb ht, rfl, hheaders, hothers⟩

end Sys2Proof.Machine
end

section
/-! The decoder and the encoder are inverse to each other (30_encoding.md R70 to R76): a word decodes to a
step exactly when the step is well-formed and the word's fields are the step's. -/

namespace Sys2Proof
open Sys2Proof.Machine

/-! ### Fields -/

theorem bLow_eq (w : CmdWord) : bLow w = (bField w).setWidth 16 := by
  simp [bLow, bField, BitVec.setWidth_eq_extractLsb']

/-- B[31:16] is zero when B fits a data word (R77). -/
theorem bHigh_eq_zero_iff (w : CmdWord) : bHigh w = 0 ↔ (bField w).toNat < 2 ^ 16 := by
  have hhigh : (bHigh w).toNat = (bField w).toNat / 2 ^ 16 := by
    have := (bField w).isLt
    simp only [bHigh, bField, BitVec.extractLsb'_toNat, Nat.shiftRight_eq_div_pow] at this ⊢
    omega
  rw [← BitVec.toNat_inj, hhigh, BitVec.ofNat_eq_ofNat, BitVec.toNat_zero, Nat.div_eq_zero_iff]
  simp

/-- A data word fits the lower half of field B (R77). -/
theorem dataWord_lt (v : Word) : (v.setWidth 32 : U32).toNat < 2 ^ 16 := by
  simp only [BitVec.toNat_setWidth]
  omega

/-- A field B below `2 ^ n` is its `n` lowest bits. -/
theorem setWidth_setWidth_of_lt {n : Nat} {b : U32} (h : b.toNat < 2 ^ n) :
    (b.setWidth n).setWidth 32 = b := by
  apply BitVec.eq_of_toNat_eq
  rw [BitVec.toNat_setWidth, BitVec.toNat_setWidth, Nat.mod_eq_of_lt h, Nat.mod_eq_of_lt b.isLt]

/-- Without its upper half field B is the data word (R77). -/
theorem bField_eq_bLow {w : CmdWord} (h : bHigh w = 0) : bField w = (bLow w).setWidth 32 := by
  rw [bLow_eq, setWidth_setWidth_of_lt ((bHigh_eq_zero_iff w).mp h)]

/-- Below 2 field B is the level (R76). -/
theorem bField_eq_level {w : CmdWord} (h : (bField w).toNat < 2) :
    bField w = (BitVec.ofBool ((bField w).getLsbD 0)).setWidth 32 := by
  have hbit : BitVec.ofBool ((bField w).getLsbD 0) = (bField w).setWidth 1 := by
    ext k hk
    obtain rfl : k = 0 := by omega
    simp
  rw [hbit, setWidth_setWidth_of_lt h]

/-! ### Must-be-zero bits -/

/-- Bits lo up to hi of the word, hi excluded, are zero. -/
def BitsClear (w : CmdWord) (lo hi : Nat) : Prop := ∀ k, lo ≤ k → k < hi → w.getLsbD k = false

theorem bitsClear_split {w : CmdWord} {lo hi : Nat} (mid : Nat) (hlo : lo ≤ mid) (hhi : mid ≤ hi) :
    BitsClear w lo hi ↔ BitsClear w mid hi ∧ BitsClear w lo mid := by
  refine ⟨fun h => ⟨fun k hk => h k (by omega), fun k hk hk' => h k hk (by omega)⟩, ?_⟩
  rintro ⟨hupper, hlower⟩ k hk hk'
  rcases Nat.lt_or_ge k mid with hm | hm
  · exact hlower k hk hm
  · exact hupper k hm hk'

theorem extractLsb'_eq_zero_iff (w : CmdWord) (lo n : Nat) :
    w.extractLsb' lo n = 0 ↔ BitsClear w lo (lo + n) := by
  constructor
  · intro h k hlo hhi
    have hk := congrArg (·.getLsbD (k - lo)) h
    simpa [show k - lo < n by omega, Nat.add_sub_cancel' hlo] using hk
  · intro h
    apply BitVec.eq_of_getLsbD_eq
    intro k hk
    simp [hk, h (lo + k) (by omega) (by omega)]

/-- A mask whose ones are bits lo up to hi, hi excluded, picks these bits. -/
theorem and_mask_eq_zero_iff {w mask : CmdWord} {lo hi : Nat}
    (hm : ∀ k : Fin 64, mask.getLsbD k = decide (lo ≤ k ∧ k < hi)) (hhi : hi ≤ 64) :
    w &&& mask = 0 ↔ BitsClear w lo hi := by
  constructor
  · intro h k hlo hk
    have hbit := congrArg (·.getLsbD k) h
    simpa [hm ⟨k, by omega⟩, hlo, hk] using hbit
  · intro h
    apply BitVec.eq_of_getLsbD_eq
    intro k hk
    rw [BitVec.getLsbD_and, hm ⟨k, hk⟩]
    by_cases hin : lo ≤ k ∧ k < hi
    · simp [h k hin.1 hin.2]
    · simp [hin]

theorem aField_eq_zero_iff (w : CmdWord) : aField w = 0 ↔ BitsClear w 40 56 := by
  rw [← extractLsb'_eq_zero_iff w 40 16, ← BitVec.toNat_inj]
  rfl

theorem rsvField_eq_zero_iff (w : CmdWord) : rsvField w = 0 ↔ BitsClear w 32 40 :=
  extractLsb'_eq_zero_iff w 32 8

theorem bField_eq_zero_iff (w : CmdWord) : bField w = 0 ↔ BitsClear w 0 32 :=
  extractLsb'_eq_zero_iff w 0 32

theorem bHigh_eq_zero_iff_bitsClear (w : CmdWord) : bHigh w = 0 ↔ BitsClear w 16 32 :=
  extractLsb'_eq_zero_iff w 16 16

theorem bField_lt_two_iff (w : CmdWord) : (bField w).toNat < 2 ↔ BitsClear w 1 32 := by
  rw [← extractLsb'_eq_zero_iff w 1 31, ← BitVec.toNat_inj]
  have := (bField w).isLt
  simp only [bField, BitVec.extractLsb'_toNat, Nat.shiftRight_eq_div_pow, BitVec.ofNat_eq_ofNat,
    BitVec.toNat_zero] at this ⊢
  omega

/-! ### The masks of the tables (R72, R76) -/

theorem clear_rsv_iff (w : CmdWord) : w &&& 0x000000FF00000000 = 0 ↔ rsvField w = 0 := by
  rw [and_mask_eq_zero_iff (lo := 32) (hi := 40) (by decide) (by decide), rsvField_eq_zero_iff]

theorem clear_rsv_b_iff (w : CmdWord) :
    w &&& 0x000000FFFFFFFFFF = 0 ↔ rsvField w = 0 ∧ bField w = 0 := by
  rw [and_mask_eq_zero_iff (lo := 0) (hi := 40) (by decide) (by decide), rsvField_eq_zero_iff,
    bField_eq_zero_iff, ← bitsClear_split 32 (by decide) (by decide)]

theorem clear_rsv_bHigh_iff (w : CmdWord) :
    w &&& 0x000000FFFFFF0000 = 0 ↔ rsvField w = 0 ∧ bHigh w = 0 := by
  rw [and_mask_eq_zero_iff (lo := 16) (hi := 40) (by decide) (by decide), rsvField_eq_zero_iff,
    bHigh_eq_zero_iff_bitsClear, ← bitsClear_split 32 (by decide) (by decide)]

/-- Field A above bits lo up to 40: the masks of the steps without operand A. -/
theorem bitsClear_a_iff {w : CmdWord} {lo : Nat} (hlo : lo ≤ 40) :
    BitsClear w lo 56 ↔ aField w = 0 ∧ BitsClear w lo 40 := by
  rw [aField_eq_zero_iff, ← bitsClear_split 40 hlo (by decide)]

theorem clear_a_rsv_iff (w : CmdWord) :
    w &&& 0x00FFFFFF00000000 = 0 ↔ aField w = 0 ∧ rsvField w = 0 := by
  rw [and_mask_eq_zero_iff (lo := 32) (hi := 56) (by decide) (by decide), bitsClear_a_iff (by decide),
    rsvField_eq_zero_iff]

theorem clear_a_rsv_b_iff (w : CmdWord) :
    w &&& 0x00FFFFFFFFFFFFFF = 0 ↔ aField w = 0 ∧ rsvField w = 0 ∧ bField w = 0 := by
  rw [and_mask_eq_zero_iff (lo := 0) (hi := 56) (by decide) (by decide), bitsClear_a_iff (by decide),
    bitsClear_split 32 (by decide) (by decide), rsvField_eq_zero_iff, bField_eq_zero_iff]

theorem clear_a_rsv_bHigh_iff (w : CmdWord) :
    w &&& 0x00FFFFFFFFFF0000 = 0 ↔ aField w = 0 ∧ rsvField w = 0 ∧ bHigh w = 0 := by
  rw [and_mask_eq_zero_iff (lo := 16) (hi := 56) (by decide) (by decide), bitsClear_a_iff (by decide),
    bitsClear_split 32 (by decide) (by decide), rsvField_eq_zero_iff, bHigh_eq_zero_iff_bitsClear]

theorem clear_a_rsv_level_iff (w : CmdWord) :
    w &&& 0x00FFFFFFFFFFFFFE = 0 ↔ aField w = 0 ∧ rsvField w = 0 ∧ (bField w).toNat < 2 := by
  rw [and_mask_eq_zero_iff (lo := 1) (hi := 56) (by decide) (by decide), bitsClear_a_iff (by decide),
    bitsClear_split 32 (by decide) (by decide), rsvField_eq_zero_iff, bField_lt_two_iff]

/-! ### The rows of the tables -/

/-- The word's fields are those of the step. -/
structure FieldsOf (w : CmdWord) (i : Instr) : Prop where
  op : opField w = opcode i
  a : aField w = operandA i
  rsv : rsvField w = 0
  b : bField w = operandB i

/-- A row of R72 or R76 at the word: it stands for the step when the row's zero bits are clear. -/
structure RowAt (w zeros : CmdWord) (i : Instr) : Prop where
  decode_eq : decode w = strict (decide (w &&& zeros = 0)) i
  wf : i.wf = true
  fields : w &&& zeros = 0 → FieldsOf w i

theorem RowAt.of_strict {w zeros : CmdWord} {i : Instr} {z : Bool} (hop : opField w = opcode i)
    (hd : decode w = strict z i) (hz : w &&& zeros = 0 ↔ z = true) (hwf : i.wf = true)
    (hf : w &&& zeros = 0 → aField w = operandA i ∧ rsvField w = 0 ∧ bField w = operandB i) :
    RowAt w zeros i where
  decode_eq := by rw [hd, decide_eq_decide.mpr hz, Bool.decide_coe]
  wf := hwf
  fields h :=
    have ⟨ha, hr, hb⟩ := hf h
    ⟨hop, ha, hr, hb⟩

theorem fitsA_aField (w : CmdWord) : fitsA (aField w) = true :=
  decide_eq_true (BitVec.isLt (w.extractLsb' 40 16))

theorem fitsB_bField (w : CmdWord) : fitsB (bField w).toNat = true :=
  decide_eq_true (bField w).isLt

theorem ofNat_bField (w : CmdWord) : BitVec.ofNat 32 (bField w).toNat = bField w := by simp

section

variable {w : CmdWord} {i : Instr}

/-- A step without operands. -/
theorem RowAt.noOperand (hop : opField w = opcode i)
    (hd : decode w = strict (aField w == 0 && rsvField w == 0 && bField w == 0) i)
    (hwf : i.wf = true) (ha : operandA i = 0) (hb : operandB i = 0) :
    RowAt w 0x00FFFFFFFFFFFFFF i :=
  .of_strict hop hd ((clear_a_rsv_b_iff w).trans (by simp [and_assoc])) hwf fun h => by
    rwa [ha, hb, ← clear_a_rsv_b_iff]

/-- A step whose one operand is field A. -/
theorem RowAt.inA (hop : opField w = opcode i)
    (hd : decode w = strict (rsvField w == 0 && bField w == 0) i)
    (hwf : i.wf = fitsA (aField w)) (ha : operandA i = aField w) (hb : operandB i = 0) :
    RowAt w 0x000000FFFFFFFFFF i :=
  .of_strict hop hd ((clear_rsv_b_iff w).trans (by simp)) (hwf.trans (fitsA_aField w)) fun h =>
    ⟨ha.symm, hb ▸ (clear_rsv_b_iff w).mp h⟩

/-- A step whose operands are the whole of fields A and B. -/
theorem RowAt.inAB (hop : opField w = opcode i) (hd : decode w = strict (rsvField w == 0) i)
    (hwf : i.wf = true) (ha : operandA i = aField w) (hb : operandB i = bField w) :
    RowAt w 0x000000FF00000000 i :=
  .of_strict hop hd ((clear_rsv_iff w).trans (by simp)) hwf fun h =>
    ⟨ha.symm, (clear_rsv_iff w).mp h, hb.symm⟩

theorem RowAt.bufWrite (hop : opField w = 0x30) :
    RowAt w 0x000000FFFFFF0000 (.bufWrite (aField w) (bLow w)) :=
  .of_strict hop (by rw [decode, hop]; rfl) ((clear_rsv_bHigh_iff w).trans (by simp)) (fitsA_aField w)
    fun h =>
      have ⟨hr, hb⟩ := (clear_rsv_bHigh_iff w).mp h
      ⟨rfl, hr, bField_eq_bLow hb⟩

theorem RowAt.linkWord (hop : opField w = 0x84) :
    RowAt w 0x00FFFFFFFFFF0000 (.linkWord (bLow w)) :=
  .of_strict hop (by rw [decode, hop]; rfl) ((clear_a_rsv_bHigh_iff w).trans (by simp [and_assoc])) rfl
    fun h =>
      have ⟨ha, hr, hb⟩ := (clear_a_rsv_bHigh_iff w).mp h
      ⟨ha, hr, bField_eq_bLow hb⟩

theorem RowAt.csPin (hop : opField w = 0x81) :
    RowAt w 0x00FFFFFFFFFFFFFE (.csPin ((bField w).getLsbD 0)) :=
  .of_strict hop (by rw [decode, hop]; rfl) ((clear_a_rsv_level_iff w).trans (by simp [and_assoc])) rfl
    fun h =>
      have ⟨ha, hr, hb⟩ := (clear_a_rsv_level_iff w).mp h
      ⟨ha, hr, bField_eq_level hb⟩

theorem RowAt.regRead (hop : opField w = 0x90) :
    RowAt w 0x00FFFFFF00000000 (.regRead (bField w).toNat) :=
  .of_strict hop (by rw [decode, hop]; rfl) ((clear_a_rsv_iff w).trans (by simp)) (fitsB_bField w) fun h =>
    have ⟨ha, hr⟩ := (clear_a_rsv_iff w).mp h
    ⟨ha, hr, (ofNat_bField w).symm⟩

end

/-- Every row of the two tables, in their order, at a word with its OP. -/
theorem rowAt_of_op (w : CmdWord) :
    ∀ row ∈ commandZeroBits ++ labelZeroBits, opField w = row.1 → ∃ i, RowAt w row.2 i := by
  simp only [commandZeroBits, labelZeroBits, List.cons_append, List.nil_append,
    List.forall_mem_cons]
  exact ⟨
    fun hop => ⟨.nop, .noOperand hop (by rw [decode, hop]; rfl) rfl rfl rfl⟩,
    fun hop => ⟨.crcInit, .noOperand hop (by rw [decode, hop]; rfl) rfl rfl rfl⟩,
    fun hop => ⟨.crcCompute (aField w) (bField w).toNat, .inAB hop (by rw [decode, hop]; rfl)
      (Bool.and_eq_true_iff.mpr ⟨fitsA_aField w, fitsB_bField w⟩) rfl (ofNat_bField w)⟩,
    fun hop => ⟨.crcStamp (aField w), .inA hop (by rw [decode, hop]; rfl) rfl rfl rfl⟩,
    fun hop => ⟨.crcCheck (aField w), .inA hop (by rw [decode, hop]; rfl) rfl rfl rfl⟩,
    fun hop => ⟨.fxRefresh, .noOperand hop (by rw [decode, hop]; rfl) rfl rfl rfl⟩,
    fun hop => ⟨.fxTrigger, .noOperand hop (by rw [decode, hop]; rfl) rfl rfl rfl⟩,
    fun hop => ⟨.tmrStart (aField w) (bField w), .inAB hop (by rw [decode, hop]; rfl)
      (fitsA_aField w) rfl rfl⟩,
    fun hop => ⟨.tmrStop (aField w), .inA hop (by rw [decode, hop]; rfl) rfl rfl rfl⟩,
    fun hop => ⟨.tmrRestart (aField w), .inA hop (by rw [decode, hop]; rfl) rfl rfl rfl⟩,
    fun hop => ⟨.tmrPop, .noOperand hop (by rw [decode, hop]; rfl) rfl rfl rfl⟩,
    fun hop => ⟨.bufWrite (aField w) (bLow w), .bufWrite hop⟩,
    fun hop => ⟨.bufRead (aField w), .inA hop (by rw [decode, hop]; rfl) rfl rfl rfl⟩,
    fun hop => ⟨.tick, .noOperand hop (by rw [decode, hop]; rfl) rfl rfl rfl⟩,
    fun hop => ⟨.csPin ((bField w).getLsbD 0), .csPin hop⟩,
    fun hop => ⟨.csGlitch, .noOperand hop (by rw [decode, hop]; rfl) rfl rfl rfl⟩,
    fun hop => ⟨.csIsr, .noOperand hop (by rw [decode, hop]; rfl) rfl rfl rfl⟩,
    fun hop => ⟨.linkWord (bLow w), .linkWord hop⟩,
    fun hop => ⟨.dmaTxStep, .noOperand hop (by rw [decode, hop]; rfl) rfl rfl rfl⟩,
    fun hop => ⟨.dmaRxStep, .noOperand hop (by rw [decode, hop]; rfl) rfl rfl rfl⟩,
    fun hop => ⟨.dmaTxIsr, .noOperand hop (by rw [decode, hop]; rfl) rfl rfl rfl⟩,
    fun hop => ⟨.dmaRxIsr, .noOperand hop (by rw [decode, hop]; rfl) rfl rfl rfl⟩,
    fun hop => ⟨.regRead (bField w).toNat, .regRead hop⟩,
    nofun⟩

theorem rowAt_of_listed {w zeros : CmdWord}
    (h : (opField w, zeros) ∈ commandZeroBits ++ labelZeroBits) : ∃ i, RowAt w zeros i :=
  rowAt_of_op w _ h rfl

/-- A word whose OP is in neither table decodes to no step (R73, R76). -/
theorem decode_of_unlisted {w : CmdWord}
    (hcmd : opField w ∉ commandZeroBits.map Prod.fst)
    (hlabel : opField w ∉ labelZeroBits.map Prod.fst) : decode w = .illegalOpcode := by
  have h : opField w ∉ commandZeroBits.map Prod.fst ++ labelZeroBits.map Prod.fst :=
    List.not_mem_append hcmd hlabel
  have hop : ∀ n : Nat, (opField w).toNat = n → opField w = BitVec.ofNat 8 n := by
    rintro n rfl
    simp
  unfold decode
  split
  case h_24 => rfl
  all_goals
    rename_i hn
    exact absurd (hop _ hn ▸ by decide) h

theorem decode_illegalOpcode_or_rowAt (w : CmdWord) :
    decode w = .illegalOpcode ∨ ∃ zeros i, RowAt w zeros i := by
  by_cases h : opField w ∈ (commandZeroBits ++ labelZeroBits).map Prod.fst
  · obtain ⟨⟨op, zeros⟩, hrow, rfl⟩ := List.mem_map.mp h
    obtain ⟨i, hi⟩ := rowAt_of_listed hrow
    exact .inr ⟨zeros, i, hi⟩
  · rw [List.map_append, List.mem_append, not_or] at h
    exact .inl (decode_of_unlisted h.1 h.2)

theorem strict_eq_instr {zero : Bool} {i j : Instr} :
    strict zero i = .instr j ↔ zero = true ∧ i = j := by
  cases zero <;> simp [strict]

/-- A word that decodes has the fields of the step it decodes to, which fit. -/
theorem fieldsOf_of_decode {w : CmdWord} {i : Instr} (h : decode w = .instr i) :
    i.wf = true ∧ FieldsOf w i := by
  rcases decode_illegalOpcode_or_rowAt w with hill | ⟨zeros, j, hrow⟩
  · rw [hill] at h
    cases h
  · rw [hrow.decode_eq, strict_eq_instr, decide_eq_true_iff] at h
    obtain ⟨hzero, rfl⟩ := h
    exact ⟨hrow.wf, hrow.fields hzero⟩

/-! ### Decoding an encoded step -/

theorem level_lt_two (level : Bool) : ((BitVec.ofBool level).setWidth 32 : U32).toNat < 2 := by
  cases level <;> decide

/-- A well-formed step's operand fits field A (R78). -/
theorem operandA_lt {i : Instr} (h : i.wf = true) : operandA i < 2 ^ 16 := by
  cases i with
  | crcCompute => exact of_decide_eq_true (Bool.and_eq_true_iff.mp h).1
  | crcStamp | crcCheck | tmrStart | tmrStop | tmrRestart | bufWrite | bufRead =>
    exact of_decide_eq_true h
  | nop | crcInit | fxRefresh | fxTrigger | tmrPop | tick | csPin | csGlitch | csIsr | linkWord
  | dmaTxStep | dmaRxStep | dmaTxIsr | dmaRxIsr | regRead => exact Nat.two_pow_pos 16

theorem fieldsOf_encode {i : Instr} (h : i.wf = true) : FieldsOf (encode i) i := by
  obtain ⟨hop, hrsv, hb, ha⟩ := Laws.EncodedFields.statement_of_fits i operandA_lt
  exact ⟨hop, ha h, hrsv, hb⟩

/-- A word is settled by its fields (R70). -/
theorem FieldsOf.encode_eq {w : CmdWord} {i : Instr} (h : FieldsOf w i) : encode i = w := by
  rw [encode, ← h.op, ← h.a, ← h.b, pack_fields w h.rsv]

theorem FieldsOf.decode_eq {w : CmdWord} {i : Instr} (h : FieldsOf w i) (hwf : i.wf = true) :
    decode w = .instr i := by
  obtain ⟨hop, ha, hrsv, hb⟩ := h
  simp only [decode, hop, ha, hrsv, hb, bLow_eq]
  cases i with
  | nop | crcInit | fxRefresh | fxTrigger | tmrPop | tick | csGlitch | csIsr | dmaTxStep | dmaRxStep
  | dmaTxIsr | dmaRxIsr | crcStamp | crcCheck | tmrStop | tmrRestart | bufRead | tmrStart => rfl
  | crcCompute | regRead =>
    simp_all [opcode, operandA, operandB, strict, Instr.wf, fitsB]
  | bufWrite _ v | linkWord v =>
    have hhigh : bHigh w = 0 := (bHigh_eq_zero_iff w).mpr (by rw [hb]; exact dataWord_lt v)
    simp_all [opcode, operandA, operandB, strict]
  | csPin level =>
    have := level_lt_two level
    simp_all [opcode, operandA, operandB, strict]

/-- Settles O1: the encoder writes the step's fields, and the decoder reads the step from them. -/
theorem decodeOfEncodeIsTheInstruction : Obligations.DecodeOfEncodeIsTheInstruction :=
  fun _ hwf => (fieldsOf_encode hwf).decode_eq hwf

/-- Settles O2: a decoded word holds the step's fields, and its fields settle a word. -/
theorem decodedWordIsTheEncoding : Obligations.DecodedWordIsTheEncoding := by
  intro w i h
  obtain ⟨hwf, hfields⟩ := fieldsOf_of_decode h
  exact ⟨hwf, hfields.encode_eq⟩

/-- Settles O3, by running the decoder on each word. -/
theorem specWordsDecode : Obligations.SpecWordsDecode := by
  unfold Obligations.SpecWordsDecode
  decide

end Sys2Proof
end

section
/-! The command port and the labels (R73 to R76, R81): what each kind of word does, by what it decodes to. -/

namespace Sys2Proof.Machine

/-! ### The OPs of the tables -/

theorem isLabelOp_of_command : ∀ op ∈ commandZeroBits.map Prod.fst, isLabelOp op = false := by decide

theorem isLabelOp_of_label : ∀ op ∈ labelZeroBits.map Prod.fst, isLabelOp op = true := by decide

theorem isEvent_of_decode {w : CmdWord} {i : Instr} (h : decode w = .instr i) :
    isEvent i = isLabelOp (opField w) := by
  obtain ⟨-, hfields⟩ := fieldsOf_of_decode h
  rw [isEvent, hfields.op]

/-- A label's OP that decodes to a step is in R76's table. -/
theorem mem_labelZeroBits_of_decode {w : CmdWord} {i : Instr} (h : decode w = .instr i)
    (he : isEvent i = true) : opField w ∈ labelZeroBits.map Prod.fst := by
  by_contra hlabel
  rw [isEvent_of_decode h] at he
  have hcmd : opField w ∉ commandZeroBits.map Prod.fst := fun hop => by
    simp [isLabelOp_of_command _ hop] at he
  rw [decode_of_unlisted hcmd hlabel] at h
  cases h

theorem decode_of_zeros_set {w zeros : CmdWord}
    (hrow : (opField w, zeros) ∈ commandZeroBits ++ labelZeroBits) (h : w &&& zeros ≠ 0) :
    decode w = .reservedField := by
  obtain ⟨i, hi⟩ := rowAt_of_listed hrow
  rw [hi.decode_eq, decide_eq_false h]
  rfl

theorem decode_of_zeros_clear {w zeros : CmdWord}
    (hrow : (opField w, zeros) ∈ commandZeroBits ++ labelZeroBits) (h : w &&& zeros = 0) :
    ∃ i, decode w = .instr i := by
  obtain ⟨i, hi⟩ := rowAt_of_listed hrow
  rw [hi.decode_eq, decide_eq_true h]
  exact ⟨i, rfl⟩

/-! ### The port -/

/-- A fault of the port latches the word's OP and no argument (R73, R74). -/
theorem portFault_running {w : CmdWord} {k : FaultKind} {s : State} (h : s.faulted = false) :
    portFault w k s =
      .next { s with faulted := true, fcode := faultCode k, fop := opField w, farg := 0 } :=
  command_running h

theorem takeCommand_of_instr {w : CmdWord} {i : Instr} {s : State} (h : decode w = .instr i)
    (he : isEvent i = false) : takeCommand w s = exec i s := by
  rw [isEvent_of_decode h] at he
  simp [takeCommand, he, h]

/-- An OP outside R72's table is illegal at the command port, a label's OP included (R75). -/
theorem takeCommand_of_unlisted {w : CmdWord} {s : State}
    (h : opField w ∉ commandZeroBits.map Prod.fst) :
    takeCommand w s = portFault w .illegalOpcode s := by
  by_cases hl : isLabelOp (opField w) = true
  · simp [takeCommand, hl]
  · have hlabel : opField w ∉ labelZeroBits.map Prod.fst := fun hop => hl (isLabelOp_of_label _ hop)
    simp [takeCommand, hl, decode_of_unlisted h hlabel]

theorem takeCommand_of_zeros_set {w zeros : CmdWord} {s : State}
    (hrow : (opField w, zeros) ∈ commandZeroBits) (h : w &&& zeros ≠ 0) :
    takeCommand w s = portFault w .reservedField s := by
  have hl := isLabelOp_of_command _ (List.mem_map_of_mem hrow)
  have hres := decode_of_zeros_set (List.mem_append_left _ hrow) h
  simp [takeCommand, hl, hres]

theorem takeLabel_of_instr {w : CmdWord} {i : Instr} {s : State} (h : decode w = .instr i)
    (he : isEvent i = true) : takeLabel w s = exec i s := by
  simp [takeLabel, h, he]

/-- A word that decodes to no event is no label (R76, R238). -/
theorem takeLabel_of_no_event {w : CmdWord} {s : State}
    (h : ∀ i, decode w = .instr i → isEvent i = false) : takeLabel w s = .refused .badLabel := by
  unfold takeLabel
  split
  · rename_i i hd
    simp [h i hd]
  · rfl
  · rfl

/-- Settles O4: the port finds no row for the OP, and a fault of the port latches the OP alone. -/
theorem unknownOpcodesFault : Obligations.UnknownOpcodesFault := by
  intro s w rest hv hf hi hop
  rw [step_cons hv hi, take, takeCommand_of_unlisted hop]
  exact portFault_running hf

/-- RSV is must-be-zero in every command (R72). -/
theorem rsv_of_commandZeroBits : ∀ p ∈ commandZeroBits, p.2.extractLsb' 32 8 = 0xFF := by
  simp [commandZeroBits]

/-- Settles O5, by the row of the word's OP. -/
theorem mustBeZeroBitsFault : Obligations.MustBeZeroBitsFault := by
  intro w zeros hrow
  refine ⟨rsv_of_commandZeroBits (opField w, zeros) hrow,
    fun hset s rest hv hf hi => ?_, fun hclear => ?_⟩
  · rw [step_cons hv hi, take, takeCommand_of_zeros_set hrow hset]
    exact portFault_running hf
  · obtain ⟨i, hd⟩ := decode_of_zeros_clear (List.mem_append_left _ hrow) hclear
    have hl := isLabelOp_of_command _ (List.mem_map_of_mem hrow)
    exact ⟨i, (isEvent_of_decode hd).trans hl, hd⟩

/-- Settles O6: neither kind of word decodes to an event. -/
theorem labelsOutsideTheTableRefused : Obligations.LabelsOutsideTheTableRefused := by
  intro s w rest hv hi
  rw [step_cons hv hi, take]
  refine ⟨fun hop => takeLabel_of_no_event fun i hd => ?_, fun zeros hrow hset => ?_⟩
  · exact Bool.eq_false_of_not_eq_true fun he => hop (mem_labelZeroBits_of_decode hd he)
  · refine takeLabel_of_no_event fun i hd => ?_
    rw [decode_of_zeros_set (List.mem_append_right _ hrow) hset] at hd
    cases hd

/-- Settles O8: the port hands a decoded word's step to `exec`. -/
theorem stepRunsTheDecodedInstruction : Obligations.StepRunsTheDecodedInstruction := by
  intro s w i rest hv hd
  refine ⟨fun hi he => ?_, fun hi he => ?_⟩
  · rw [step_cons hv hi, take, takeCommand_of_instr hd he]
  · rw [step_cons hv hi, take, takeLabel_of_instr hd he]

/-- Settles O23: both run through the gate of R81, and their bodies raise nothing. -/
theorem nopAndCrcInitComplete : Obligations.NopAndCrcInitComplete := fun s hf =>
  ⟨(command_running hf : execNop s = _), (command_running hf : execCrcInit s = _)⟩

end Sys2Proof.Machine
end

section
/-! The assembler (30_encoding.md R78): its numbers, its forms and its lines. -/

namespace Sys2Proof.Machine

/-! ### Numbers -/

theorem digitsValue_toDigits {b : Nat} (hb : 1 < b) (hb' : b ≤ 16) (n : Nat) :
    digitsValue b 0 (Nat.toDigits b n) = some n := by
  induction n using Nat.strong_induction_on with
  | _ n ih =>
    rcases Nat.lt_or_ge n b with h | h
    · simp [Nat.toDigits_of_lt_base h, digitsValue, digitValue_digitChar hb' h]
    · have hlast : digitValue b (n % b).digitChar = some (n % b) :=
        digitValue_digitChar hb' (Nat.mod_lt n (by omega))
      have hlead := ih (n / b) (Nat.div_lt_self (by omega) hb)
      rw [Nat.toDigits_of_base_le hb h, digitsValue_append, hlead]
      simp [digitsValue, hlast, Nat.div_add_mod']

theorem parseNumber_decimal {cs : List Char} {n : Nat} (hne : cs ≠ [])
    (h : digitsValue 10 0 cs = some n) : parseNumber cs = .ok n := by
  unfold parseNumber
  split
  · exact absurd rfl hne
  · cases h
  · rw [h]

theorem parseNumber_hex {cs : List Char} {n : Nat} (hne : cs ≠ [])
    (h : digitsValue 16 0 cs = some n) : parseNumber ('0' :: 'x' :: cs) = .ok n := by
  cases cs with
  | nil => exact absurd rfl hne
  | cons c cs => simp [parseNumber, h]

/-! ### Forms -/

/-- The step holds the numbers in the fields the form names for them (R72, R76), and they fit. -/
structure Carried (row : AsmRow) (xs : List Nat) (i : Instr) : Prop where
  op : opcode i = row.op
  a : operandA i = row.valueA xs
  b : (operandB i).toNat = row.valueB xs
  wf : i.wf = true

/-- The form takes as many numbers as the row has bounds, each below its bound, and carries them (R78). -/
structure FormOf (row : AsmRow) (form : List Nat → Except AsmError Instr) : Prop where
  count : ∀ xs : List Nat, xs.length ≠ row.bounds.length → form xs = .error .operandCount
  wide : ∀ xs : List Nat, xs.length = row.bounds.length → (∃ p ∈ xs.zip row.bounds, p.2 ≤ p.1) →
    form xs = .error .operandTooWide
  fits : ∀ xs : List Nat, xs.length = row.bounds.length → (∀ p ∈ xs.zip row.bounds, p.1 < p.2) →
    ∃ i, form xs = .ok i ∧ Carried row xs i

theorem FormOf.form0 {row : AsmRow} {i : Instr} (hb : row.bounds = []) (h : Carried row [] i) :
    FormOf row (form0 i) where
  count xs hlen := by
    obtain ⟨x, xs, rfl⟩ := List.exists_cons_of_ne_nil (by simpa [hb] using hlen : xs ≠ [])
    rfl
  wide xs _ hp := by simp [hb] at hp
  fits xs hlen _ := by
    obtain rfl : xs = [] := by simpa [hb] using hlen
    exact ⟨i, rfl, h⟩

theorem FormOf.form1 {row : AsmRow} {bound : Nat} {f : Nat → Instr} (hb : row.bounds = [bound])
    (h : ∀ x < bound, Carried row [x] (f x)) : FormOf row (form1 bound f) where
  count xs hlen := by
    match xs with
    | [] | _ :: _ :: _ => rfl
    | [_] => simp [hb] at hlen
  wide xs hlen hp := by
    rw [hb] at hlen hp
    obtain ⟨x, rfl⟩ := List.length_eq_one_iff.mp hlen
    exact form1_too_wide f (by simpa using hp)
  fits xs hlen hp := by
    rw [hb] at hlen hp
    obtain ⟨x, rfl⟩ := List.length_eq_one_iff.mp hlen
    have hx : x < bound := by simpa using hp
    exact ⟨f x, form1_fits f hx, h x hx⟩

theorem FormOf.form2 {row : AsmRow} {b₁ b₂ : Nat} {f : Nat → Nat → Instr}
    (hb : row.bounds = [b₁, b₂]) (h : ∀ x < b₁, ∀ y < b₂, Carried row [x, y] (f x y)) :
    FormOf row (form2 b₁ b₂ f) where
  count xs hlen := by
    match xs with
    | [] | [_] | _ :: _ :: _ :: _ => rfl
    | [_, _] => simp [hb] at hlen
  wide xs hlen hp := by
    rw [hb] at hlen hp
    obtain ⟨x, y, rfl⟩ := List.length_eq_two.mp hlen
    exact form2_too_wide f (by simpa using hp)
  fits xs hlen hp := by
    rw [hb] at hlen hp
    obtain ⟨x, y, rfl⟩ := List.length_eq_two.mp hlen
    obtain ⟨hx, hy⟩ : x < b₁ ∧ y < b₂ := by simpa using hp
    exact ⟨f x y, form2_fits f hx hy, h x hx y hy⟩

/-- What a form accepts is what it carries. -/
theorem FormOf.carried {row : AsmRow} {form : List Nat → Except AsmError Instr} {xs : List Nat}
    {i : Instr} (h : FormOf row form) (hi : form xs = .ok i) : Carried row xs i := by
  by_cases hlen : xs.length = row.bounds.length
  · by_cases hfit : ∀ p ∈ xs.zip row.bounds, p.1 < p.2
    · obtain ⟨j, hj, hc⟩ := h.fits xs hlen hfit
      rw [hi] at hj
      cases hj
      exact hc
    · rw [h.wide xs hlen (by simpa using hfit)] at hi
      cases hi
  · rw [h.count xs hlen] at hi
    cases hi

/-- A number that fills field B is read back from it (R71). -/
theorem toNat_number {x : Nat} (h : x < 2 ^ 32) : (BitVec.ofNat 32 x).toNat = x :=
  (BitVec.toNat_ofNat x 32).trans (Nat.mod_eq_of_lt h)

/-- A data word's number is read back from field B (R77). -/
theorem toNat_dataWord {x : Nat} (h : x < 2 ^ 16) : ((BitVec.ofNat 16 x).setWidth 32).toNat = x := by
  rw [BitVec.toNat_setWidth, BitVec.toNat_ofNat]
  omega

/-- A level's number is read back from field B (R76). -/
theorem toNat_level {x : Nat} (h : x < 2) :
    ((BitVec.ofBool (decide (x = 1))).setWidth 32).toNat = x := by
  interval_cases x <;> rfl

/-- Every row of R78's table, in the table's order, is the form of its mnemonic. -/
theorem asmForm_listed :
    ∀ row ∈ asmRows, ∃ form, asmForm row.mnemonic = some form ∧ FormOf row form := by
  simp only [asmRows, commandForms, labelForms, List.cons_append, List.nil_append,
    List.forall_mem_cons]
  exact ⟨
    ⟨_, rfl, .form0 rfl ⟨rfl, rfl, rfl, rfl⟩⟩,
    ⟨_, rfl, .form0 rfl ⟨rfl, rfl, rfl, rfl⟩⟩,
    ⟨_, rfl, .form2 rfl fun _ hx y hy =>
      ⟨rfl, rfl, toNat_number hy, by simpa [Instr.wf, fitsA, fitsB] using ⟨hx, hy⟩⟩⟩,
    ⟨_, rfl, .form1 rfl fun _ hx => ⟨rfl, rfl, rfl, decide_eq_true hx⟩⟩,
    ⟨_, rfl, .form1 rfl fun _ hx => ⟨rfl, rfl, rfl, decide_eq_true hx⟩⟩,
    ⟨_, rfl, .form0 rfl ⟨rfl, rfl, rfl, rfl⟩⟩,
    ⟨_, rfl, .form0 rfl ⟨rfl, rfl, rfl, rfl⟩⟩,
    ⟨_, rfl, .form2 rfl fun _ hx y hy => ⟨rfl, rfl, toNat_number hy, decide_eq_true hx⟩⟩,
    ⟨_, rfl, .form1 rfl fun _ hx => ⟨rfl, rfl, rfl, decide_eq_true hx⟩⟩,
    ⟨_, rfl, .form1 rfl fun _ hx => ⟨rfl, rfl, rfl, decide_eq_true hx⟩⟩,
    ⟨_, rfl, .form0 rfl ⟨rfl, rfl, rfl, rfl⟩⟩,
    ⟨_, rfl, .form2 rfl fun _ hx y hy => ⟨rfl, rfl, toNat_dataWord hy, decide_eq_true hx⟩⟩,
    ⟨_, rfl, .form1 rfl fun _ hx => ⟨rfl, rfl, rfl, decide_eq_true hx⟩⟩,
    ⟨_, rfl, .form0 rfl ⟨rfl, rfl, rfl, rfl⟩⟩,
    ⟨_, rfl, .form1 rfl fun x hx => ⟨rfl, rfl, toNat_level hx, rfl⟩⟩,
    ⟨_, rfl, .form0 rfl ⟨rfl, rfl, rfl, rfl⟩⟩,
    ⟨_, rfl, .form0 rfl ⟨rfl, rfl, rfl, rfl⟩⟩,
    ⟨_, rfl, .form1 rfl fun x hx => ⟨rfl, rfl, toNat_dataWord hx, rfl⟩⟩,
    ⟨_, rfl, .form0 rfl ⟨rfl, rfl, rfl, rfl⟩⟩,
    ⟨_, rfl, .form0 rfl ⟨rfl, rfl, rfl, rfl⟩⟩,
    ⟨_, rfl, .form0 rfl ⟨rfl, rfl, rfl, rfl⟩⟩,
    ⟨_, rfl, .form0 rfl ⟨rfl, rfl, rfl, rfl⟩⟩,
    ⟨_, rfl, .form1 rfl fun x hx => ⟨rfl, rfl, toNat_number hx, decide_eq_true hx⟩⟩,
    nofun⟩

theorem asmForm_unlisted {m : List Char} (h : m ∉ asmRows.map AsmRow.mnemonic) : asmForm m = none := by
  simp only [asmRows, commandForms, labelForms, List.cons_append, List.nil_append,
    List.map_cons, List.map_nil, List.mem_cons, List.not_mem_nil, not_or, or_false] at h
  simp only [asmForm, h, if_false]

/-! ### Lines -/

theorem assembleLine_of_parts {line m rest : List Char} {form : List Nat → Except AsmError Instr}
    {xs : List Nat} (hline : trimBlanks (stripComment line) = m ++ rest)
    (hm : ∀ c ∈ m, isBlank c = false) (hrest : ∀ c ∈ rest.head?, isBlank c = true)
    (hform : asmForm m = some form) (hxs : parseNumbers (operandParts rest) = .ok xs) :
    assembleLine line = (form xs).map some := by
  have htake : (m ++ rest).takeWhile (!isBlank ·) = m := by
    rw [List.takeWhile_append_of_pos (by simpa using hm)]
    cases rest <;> simp_all
  have hdrop : (m ++ rest).dropWhile (!isBlank ·) = rest := by
    rw [List.dropWhile_append_of_pos (by simpa using hm)]
    cases rest <;> simp_all
  unfold assembleLine
  rw [hline]
  split
  · rename_i heq
    rw [(List.append_eq_nil_iff.mp heq).1] at hform
    cases hform
  · rename_i c cs heq
    rw [← heq, htake, hdrop, hform, hxs]
    cases hf : form xs <;> simp [hf, bind, Except.bind, Except.map]

theorem asm_bind_eq_ok {α β : Type} {x : Except AsmError α} {f : α → Except AsmError β} {b : β} :
    (x >>= f) = .ok b ↔ ∃ a, x = .ok a ∧ f a = .ok b := by
  cases x <;> simp [bind, Except.bind]

/-- An assembled step comes from a form. -/
theorem form_of_assembleLine {line : List Char} {i : Instr} (h : assembleLine line = .ok (some i)) :
    ∃ m form xs, asmForm m = some form ∧ form xs = .ok i := by
  unfold assembleLine at h
  split at h
  · cases h
  · split at h
    · cases h
    · rename_i form hform
      obtain ⟨xs, -, h⟩ := asm_bind_eq_ok.mp h
      obtain ⟨j, hj, h⟩ := asm_bind_eq_ok.mp h
      cases h
      exact ⟨_, form, xs, hform, hj⟩

/-- Settles O7: each row is the form of its mnemonic, and lines and numbers are read as written. -/
theorem assembledInstructionsFitTheirFields : Obligations.AssembledInstructionsFitTheirFields := by
  refine ⟨fun row hrow => ?_, fun _ => asmForm_unlisted, fun _ _ _ _ _ => assembleLine_of_parts,
    fun n => ?_, fun line i h => ?_⟩
  · obtain ⟨form, hform, h⟩ := asmForm_listed row hrow
    refine ⟨form, hform, fun xs => ⟨h.count xs, h.wide xs, fun hlen hfit => ?_⟩⟩
    obtain ⟨i, hi, hc⟩ := h.fits xs hlen hfit
    exact ⟨i, hi, hc.op, hc.a, hc.b⟩
  · exact ⟨parseNumber_decimal Nat.toDigits_ne_nil (digitsValue_toDigits (by decide) (by decide) n),
      parseNumber_hex Nat.toDigits_ne_nil (digitsValue_toDigits (by decide) (by decide) n)⟩
  · obtain ⟨m, form, xs, hform, hi⟩ := form_of_assembleLine h
    obtain ⟨row, hrow, rfl⟩ : ∃ row ∈ asmRows, row.mnemonic = m := by
      by_contra hm
      rw [asmForm_unlisted (by simpa using hm)] at hform
      cases hform
    obtain ⟨form', hform', hrowForm⟩ := asmForm_listed row hrow
    rw [hform] at hform'
    cases hform'
    exact (hrowForm.carried hi).wf

end Sys2Proof.Machine
end

section
/-! The CRC as a function (40_crc.md R100 to R105, R111): the shift register is linear and injective, and a
word is shifted in whole, so the table form is the bit-serial form and no change of one word goes unseen. -/

namespace Sys2Proof.Machine

/-! ### The shift register -/

/-- What a step adds for the bit shifted out (R100). -/
def crcFeedback (top : Bool) : Word := if top then 0x1021 else 0

theorem crcFeedback_xor (a b : Bool) : crcFeedback (a ^^ b) = crcFeedback a ^^^ crcFeedback b := by
  cases a <;> cases b <;> rfl

theorem crcShift_eq (c : Word) : crcShift c = c <<< 1 ^^^ crcFeedback (c.getLsbD 15) := by
  unfold crcShift crcFeedback
  split
  · rfl
  · exact BitVec.xor_zero.symm

theorem crcShift_xor (x y : Word) : crcShift (x ^^^ y) = crcShift x ^^^ crcShift y := by
  rw [crcShift_eq, crcShift_eq, crcShift_eq, BitVec.shiftLeft_xor_distrib, BitVec.getLsbD_xor,
    crcFeedback_xor]
  ac_rfl

theorem crcShifts_xor (n : Nat) (x y : Word) :
    crcShifts n (x ^^^ y) = crcShifts n x ^^^ crcShifts n y := by
  induction n generalizing x y with
  | zero => rfl
  | succ n ih => simp only [crcShifts, crcShift_xor, ih]

theorem crcShifts_add (m n : Nat) (c : Word) : crcShifts (m + n) c = crcShifts n (crcShifts m c) := by
  induction m generalizing c with
  | zero => rw [Nat.zero_add, crcShifts]
  | succ m ih => rw [Nat.succ_add, crcShifts, crcShifts, ih]

/-- While the n top bits are clear, n steps add no polynomial. -/
theorem crcShifts_of_clear {n : Nat} {c : Word} (h : ∀ i, 16 ≤ i + n → c.getLsbD i = false) :
    crcShifts n c = c <<< n := by
  induction n generalizing c with
  | zero => exact (BitVec.shiftLeft_zero c).symm
  | succ n ih =>
    have hstep : crcShift c = c <<< 1 := by
      rw [crcShift_eq, h 15 (by omega)]
      exact BitVec.xor_zero
    have hclear : ∀ i, 16 ≤ i + n → (c <<< 1).getLsbD i = false := fun i hi => by
      simp only [BitVec.getLsbD_shiftLeft, h (i - 1) (by omega), Bool.and_false]
    rw [crcShifts, hstep, ih hclear, ← BitVec.shiftLeft_add, Nat.add_comm]

/-- Eight steps shift a byte up from the low half. -/
theorem crcShifts_lowByte (b : Byte) : crcShifts 8 (b.setWidth 16) = b.setWidth 16 <<< 8 :=
  crcShifts_of_clear fun i hi => by
    rw [BitVec.getLsbD_setWidth, BitVec.getLsbD_of_ge b i (by omega), Bool.and_false]

/-- The bit shifted in is the bit shifted out: the polynomial is odd. -/
theorem crcShift_getLsbD_zero (c : Word) : (crcShift c).getLsbD 0 = c.getLsbD 15 := by
  have hodd : ∀ a : Bool, (crcFeedback a).getLsbD 0 = a := by decide
  rw [crcShift_eq, BitVec.getLsbD_xor, hodd]
  simp

theorem crcShift_injective : Function.Injective crcShift := by
  intro x y h
  have htop : x.getLsbD 15 = y.getLsbD 15 := by
    rw [← crcShift_getLsbD_zero, h, crcShift_getLsbD_zero]
  have hshift : x <<< 1 = y <<< 1 := by
    rw [crcShift_eq, crcShift_eq, htop] at h
    exact (BitVec.xor_left_inj _).mp h
  apply BitVec.eq_of_getLsbD_eq
  intro i hi
  rcases Nat.lt_or_ge i 15 with hlt | hge
  · have hbit := congrArg (·.getLsbD (i + 1)) hshift
    simpa only [BitVec.getLsbD_shiftLeft, show i + 1 < 16 by omega, decide_true, Bool.true_and,
      Nat.add_sub_cancel, show ¬ i + 1 < 1 by omega, decide_false, Bool.not_false] using hbit
  · obtain rfl : i = 15 := by omega
    exact htop

theorem crcShifts_injective (n : Nat) : Function.Injective (crcShifts n) := by
  induction n with
  | zero => exact Function.injective_id
  | succ n ih => exact ih.comp crcShift_injective

/-! ### Bytes and words -/

/-- A word is its high byte and its low byte. -/
theorem word_eq_bytes (w : Word) :
    (w.extractLsb' 8 8).setWidth 16 <<< 8 ^^^ (w.extractLsb' 0 8).setWidth 16 = w := by
  apply BitVec.eq_of_getLsbD_eq
  intro i hi
  rcases Nat.lt_or_ge i 8 with hlt | hge
  · simp [hlt, hi]
  · simp [hi, Nat.not_lt.mpr hge, Nat.add_sub_cancel' hge, show i - 8 < 8 by omega]

/-- The table lookup is eight steps with the byte at the top (R100, R102, R105). -/
theorem crcByte_eq (r : Word) (b : Byte) : crcByte r b = crcSerialByte r b := by
  have hlow : r <<< 8 = crcShifts 8 ((r.extractLsb' 0 8).setWidth 16) := by
    rw [crcShifts_lowByte]
    conv_lhs => rw [← word_eq_bytes r]
    rw [BitVec.shiftLeft_xor_distrib, ← BitVec.shiftLeft_add, BitVec.shiftLeft_eq_zero (by decide),
      BitVec.zero_xor]
  have htop : (r.extractLsb' 8 8 ^^^ b).setWidth 16 <<< 8 =
      (r.extractLsb' 8 8).setWidth 16 <<< 8 ^^^ b.setWidth 16 <<< 8 := by
    rw [BitVec.setWidth_xor, BitVec.shiftLeft_xor_distrib]
  rw [crcByte, crcTable, crcSerialByte, hlow, htop, ← crcShifts_xor, ← BitVec.xor_assoc,
    BitVec.xor_comm (BitVec.setWidth _ _), word_eq_bytes]

/-- A word goes through the register as sixteen steps (R103). -/
theorem crcWord_eq (r w : Word) : crcWord r w = crcShifts 16 (r ^^^ w) := by
  rw [crcWord, crcByte_eq, crcByte_eq, crcSerialByte, crcSerialByte,
    ← crcShifts_lowByte (w.extractLsb' 0 8), ← crcShifts_xor, ← crcShifts_add, BitVec.xor_assoc,
    word_eq_bytes]

theorem crcWord_append (r : Word) (x y : Byte) :
    crcWord r (x ++ y : BitVec 16) = crcSerialByte (crcSerialByte r x) y := by
  rw [crcWord, crcByte_eq, crcByte_eq, BitVec.extractLsb'_append_eq_left,
    BitVec.extractLsb'_append_eq_right]

theorem foldl_crcWord_append (bs : List (Byte × Byte)) (r : Word) :
    (bs.map fun b => (b.1 ++ b.2 : BitVec 16)).foldl crcWord r =
      (bs.flatMap fun b => [b.1, b.2]).foldl crcSerialByte r := by
  induction bs generalizing r with
  | nil => rfl
  | cons b bs ih =>
    rw [List.map_cons, List.foldl_cons, crcWord_append, ih]
    rfl

/-- Settles O21: byte by byte the lookup is the eight steps, so the folds agree. -/
theorem tableCrcEqualsBitSerialCrc : Obligations.TableCrcEqualsBitSerialCrc :=
  ⟨fun bs => foldl_crcWord_append bs crcInitial, by decide +kernel⟩

/-! ### Error detection -/

theorem crcWord_left_injective (w : Word) : Function.Injective (crcWord · w) := by
  intro r r' h
  simp only [crcWord_eq] at h
  exact (BitVec.xor_left_inj w).mp (crcShifts_injective 16 h)

theorem crcWord_right_injective (r : Word) : Function.Injective (crcWord r) := by
  intro w w' h
  rw [crcWord_eq, crcWord_eq] at h
  exact (BitVec.xor_right_inj r).mp (crcShifts_injective 16 h)

/-- The words that follow never hide a difference of the remainder. -/
theorem foldl_crcWord_injective (ws : List Word) : Function.Injective (ws.foldl crcWord ·) := by
  induction ws with
  | nil => exact Function.injective_id
  | cons w ws ih => exact ih.comp (crcWord_left_injective w)

/-- The CRC tells any two values of one word apart. -/
theorem crcWords_set {ws : List Word} {i : Nat} (h : i < ws.length) (v : Word) :
    crcWords (ws.set i v) = crcWords ws ↔ v = ws[i] := by
  refine ⟨fun heq => ?_, fun hv => by rw [hv, List.set_getElem_self]⟩
  have hws : ws = ws.take i ++ ws[i] :: ws.drop (i + 1) := by simp
  rw [List.set_eq_take_append_cons_drop, if_pos h] at heq
  conv at heq => rhs; rw [hws]
  simp only [crcWords, List.foldl_append, List.foldl_cons] at heq
  exact crcWord_right_injective _ (foldl_crcWord_injective _ heq)

theorem xor_bit_ne (w : Word) {b : Nat} (hb : b < 16) : w ^^^ ((1 : Word) <<< b) ≠ w := by
  intro h
  have hbit := congrArg (·.getLsbD b) h
  simp [hb] at hbit

/-- Settles O22: the CRC is injective in each word, and a flipped word is another word. -/
theorem everySingleBitFlipIsDetected : Obligations.EverySingleBitFlipIsDetected := by
  refine ⟨fun ws i b h hb heq => ?_, fun ws header b hb hc => ?_⟩
  · exact xor_bit_ne _ hb ((crcWords_set h _).mp heq)
  · rw [hc]
    exact (xor_bit_ne header hb).symm

end Sys2Proof.Machine
end

section
/-! The commands of the CRC unit (40_crc.md R106 to R108): behind the two guards each command is its reads and
at most one store, so its fault is a guard's or that of the first access that fails. -/

namespace Sys2Proof.Machine

/-! ### The guards -/

/-- What a command of the unit does behind its operand's guard and then the table's. -/
def guarded (s : State) (inRange : Bool) (x : Trap) (r : Except Trap State) : Except Trap State := do
  require inRange x
  checkTable s
  r

theorem guarded_out_of_range {s : State} {inRange : Bool} {x : Trap} {r : Except Trap State}
    (h : inRange = false) : guarded s inRange x r = .error x := by
  rw [guarded, require_error.mpr ⟨h, rfl⟩]
  rfl

theorem guarded_not_ready {s : State} {inRange : Bool} {x : Trap} {r : Except Trap State}
    (h : inRange = true) (hb : s.tableValid = false) :
    guarded s inRange x r = .error ⟨.tableNotReady, 0⟩ := by
  rw [guarded, require_ok.mpr h, checkTable, require_error.mpr ⟨hb, rfl⟩]
  rfl

theorem guarded_ready {s : State} {inRange : Bool} {x : Trap} {r : Except Trap State}
    (h : inRange = true) (hb : s.tableValid = true) : guarded s inRange x r = r := by
  rw [guarded, require_ok.mpr h, checkTable, require_ok.mpr hb]
  rfl

theorem exec_crcCompute {s : State} (hf : s.faulted = false) (a n : Nat) :
    exec (.crcCompute a n) s =
      settle 0x02 s (guarded s (decide (a + n ≤ bufWords s.cfg)) ⟨.addrRange, a⟩ do
        let ws ← readSpan (cmdRead s) a n
        .ok { s with crcResult := some (crcWords ws) }) := by
  change execCrcCompute a n s = _
  rw [execCrcCompute, command_running hf]
  rfl

theorem exec_crcStamp {s : State} (hf : s.faulted = false) (k : Nat) :
    exec (.crcStamp k) s =
      settle 0x03 s (guarded s (decide (k < 2 * s.cfg.workers)) ⟨.chunkRange, k⟩ do
        let stamped ← stampChunk k s
        .ok { stamped.2 with crcResult := some stamped.1 }) := by
  change execCrcStamp k s = _
  rw [execCrcStamp, command_running hf]
  rfl

theorem exec_crcCheck {s : State} (hf : s.faulted = false) (k : Nat) :
    exec (.crcCheck k) s =
      settle 0x04 s (guarded s (decide (k < 2 * s.cfg.workers)) ⟨.chunkRange, k⟩ do
        let ws ← readPayload (cmdRead s) s.cfg k
        let stored ← cmdRead s (headerAddr s.cfg k)
        .ok { s with crcResult := some (crcWords ws)
                     crcMatch := some (decide (crcWords ws = stored)) }) := by
  change execCrcCheck k s = _
  rw [execCrcCheck, command_running hf]
  rfl

/-! ### CRC.COMPUTE -/

/-- Settles O24: the guards pass and the span is read whole. -/
theorem crcComputeSetsTheResult : Obligations.CrcComputeSetsTheResult := by
  intro s a n hf ha hb hread
  rw [exec_crcCompute hf, guarded_ready (decide_eq_true ha) hb, readSpan_readable ha hread]
  rfl

/-- Settles O25: the guards fault in their order, and the read of the span at its first unreadable word. -/
theorem crcComputeFaultsInOrder : Obligations.CrcComputeFaultsInOrder := by
  intro s a n hf
  rw [exec_crcCompute hf]
  refine ⟨fun ha => ?_, fun ha hb => ?_, fun ha hb x hx => ?_⟩
  · rw [guarded_out_of_range (decide_eq_false (Nat.not_le.mpr ha))]
    rfl
  · rw [guarded_not_ready (decide_eq_true ha) hb]
    rfl
  · rw [guarded_ready (decide_eq_true ha) hb, readSpan_unreadable ha hx, readFault_eq]
    rfl

/-! ### CRC.STAMP and CRC.CHECK -/

/-- A command's read of a payload faults at its first unreadable word. -/
theorem readPayload_unreadable {s : State} {k x : Nat} (hk : k < 2 * s.cfg.workers)
    (hC : 1 ≤ s.cfg.chunk) (h : FirstFailing (Readable s) (payloadAddrs s.cfg k) x) :
    readPayload (cmdRead s) s.cfg k =
      .error ⟨if readRace s x then .bufferRace else .unwrittenRead, x⟩ :=
  readSpan_unreadable (payload_inside hk hC) h

/-- A stamp whose payload is not read faults as that read does. -/
theorem stampChunk_of_read_error {s : State} {k : Nat} {x : Trap}
    (h : readPayload (cmdRead s) s.cfg k = .error x) : stampChunk k s = .error x := by
  rw [stampChunk, h]
  rfl

/-- A stamp of a readable payload faults at a race on the header (R107). -/
theorem stampChunk_race {s : State} {k : Nat} (hk : k < 2 * s.cfg.workers) (hC : 1 ≤ s.cfg.chunk)
    (h : ∀ x ∈ payloadAddrs s.cfg k, Readable s x) (hw : writeRace s (headerAddr s.cfg k) = true) :
    stampChunk k s = .error ⟨.bufferRace, headerAddr s.cfg k⟩ := by
  have hwrite : ∀ v, cmdWrite (chunkBase s.cfg k) v s = .error ⟨.bufferRace, headerAddr s.cfg k⟩ :=
    fun _ => if_pos hw
  rw [stampChunk, readPayload_readable hk hC h]
  change (cmdWrite _ _ s >>= _) = _
  rw [hwrite]
  rfl

/-- The state after CRC.STAMP k: the payload's CRC in the header and in CRC_RESULT (R107). -/
def stamped (k : Nat) (s : State) : State :=
  { bufSet (headerAddr s.cfg k) (crcWords (payloadOf s k)) s with
    crcResult := some (crcWords (payloadOf s k)) }

theorem bufGet_stamped_header (k : Nat) (s : State) :
    bufGet (stamped k s) (headerAddr s.cfg k) = some (crcWords (payloadOf s k)) :=
  bufGet_bufSet_same _ _ s

theorem bufGet_stamped_other {k x : Nat} {s : State} (h : x ≠ headerAddr s.cfg k) :
    bufGet (stamped k s) x = bufGet s x :=
  bufGet_bufSet_other _ s h

theorem exec_crcStamp_stampable {s : State} {k : Nat} (hf : s.faulted = false)
    (hk : k < 2 * s.cfg.workers) (hC : 1 ≤ s.cfg.chunk) (hb : s.tableValid = true)
    (h : Stampable s k) : exec (.crcStamp k) s = .next (stamped k s) := by
  obtain ⟨hread, hfree⟩ := h
  rw [exec_crcStamp hf, guarded_ready (decide_eq_true hk) hb, stampChunk_readable hk hC hread hfree]
  rfl

/-- Settles O26: the store to the header is the only one. -/
theorem crcStampWritesTheHeader : Obligations.CrcStampWritesTheHeader := by
  intro s k hv hf hk hb hread hfree
  obtain ⟨-, -, hC, -⟩ := (configValid_iff s.cfg).mp hv
  exact ⟨stamped k s, exec_crcStamp_stampable hf hk hC hb ⟨hread, hfree⟩, rfl,
    bufGet_stamped_header k s, fun _ => bufGet_stamped_other⟩

/-- Settles O27: the payload and then the header are read, and the state keeps all but the two results. -/
theorem crcCheckComparesTheHeader : Obligations.CrcCheckComparesTheHeader := by
  intro s k hv hf hk hb hread hheader
  obtain ⟨-, -, hC, -⟩ := (configValid_iff s.cfg).mp hv
  rw [exec_crcCheck hf, guarded_ready (decide_eq_true hk) hb, readPayload_readable hk hC hread,
    cmdRead_of_readable (header_inside hk hC) hheader]
  rfl

/-- The first failing address of a list with one more at its end is the list's, or else the last one. -/
theorem firstFailing_concat {P : Nat → Prop} {l : List Nat} {a x : Nat}
    (h : FirstFailing P (l ++ [a]) x) : FirstFailing P l x ∨ ((∀ y ∈ l, P y) ∧ x = a ∧ ¬ P a) := by
  obtain ⟨before, after, heq, hbefore, hx⟩ := h
  rcases List.eq_nil_or_concat after with rfl | ⟨after, b, rfl⟩
  · obtain ⟨rfl, hax⟩ := List.append_inj' heq rfl
    obtain rfl := List.singleton_inj.mp hax
    exact .inr ⟨hbefore, rfl, hx⟩
  · rw [List.concat_eq_append, ← List.cons_append, ← List.append_assoc] at heq
    exact .inl ⟨before, after, List.append_inj_left' heq rfl, hbefore, hx⟩

/-- Settles O28: both commands fault at the guards and at the payload alike, and at the header last. -/
theorem crcStampAndCheckFaultInOrder : Obligations.CrcStampAndCheckFaultInOrder := by
  intro s k hv hf
  obtain ⟨-, -, hC, -⟩ := (configValid_iff s.cfg).mp hv
  rw [exec_crcStamp hf, exec_crcCheck hf]
  refine ⟨fun hk => ?_, fun hk hb => ?_, fun hk hb => ?_⟩
  · rw [guarded_out_of_range (decide_eq_false (Nat.not_lt.mpr hk)),
      guarded_out_of_range (decide_eq_false (Nat.not_lt.mpr hk))]
    exact ⟨rfl, rfl⟩
  · rw [guarded_not_ready (decide_eq_true hk) hb, guarded_not_ready (decide_eq_true hk) hb]
    exact ⟨rfl, rfl⟩
  · rw [guarded_ready (decide_eq_true hk) hb, guarded_ready (decide_eq_true hk) hb]
    refine ⟨fun x hx => ?_, fun hread hw => ?_, fun x hx => ?_⟩
    · rw [stampChunk_of_read_error (readPayload_unreadable hk hC hx), readFault_eq]
      rfl
    · rw [stampChunk_race hk hC hread hw]
      rfl
    · rcases firstFailing_concat hx with hx | ⟨hread, rfl, hlast⟩
      · rw [readPayload_unreadable hk hC hx, readFault_eq]
        rfl
      · rw [readPayload_readable hk hC hread,
          cmdRead_of_not_readable (header_inside hk hC) hlast, readFault_eq]
        rfl

/-! ### A stamp, then a check -/

/-- Words a command has read are readable. -/
theorem readable_of_readSpan {s : State} {a n x : Nat} {ws : List Word}
    (h : readSpan (cmdRead s) a n = .ok ws) (hx : x ∈ spanAddrs a n) : Readable s x := by
  obtain ⟨hlen, hget⟩ := readSpan_ok.mp h
  obtain ⟨hlo, hhi⟩ := mem_spanAddrs.mp hx
  obtain ⟨hrace, -, hword⟩ := cmdRead_ok.mp (hget (x - a) (by omega))
  rw [Nat.add_sub_cancel' hlo] at hrace hword
  exact ⟨hrace, by rw [hword]; rfl⟩

/-- A read races only where a write would: a running receive channel holds the window open (R47, R63). -/
theorem readRace_of_no_writeRace {s : State} {a : Nat} (h : writeRace s a = false) :
    readRace s a = false := by
  by_contra hr
  simp only [readRace, Bool.not_eq_false, Bool.and_eq_true, decide_eq_true_eq] at hr
  obtain ⟨hrun, hin⟩ := hr
  simp [writeRace, window, hrun, hin] at h

/-- A stamp that completes stamped a chunk it could stamp. -/
theorem stampable_of_crcStamp {s t : State} {k : Nat} (h : exec (.crcStamp k) s = .next t)
    (hf : s.faulted = false) (ht : t.faulted = false) :
    k < 2 * s.cfg.workers ∧ s.tableValid = true ∧ Stampable s k := by
  cases exec_next h with
  | completed _ he =>
    cases he with
    | crcStamp hk hb hread _ hfree => exact ⟨hk, hb, fun _ hx => readable_of_readSpan hread hx, hfree⟩
  | ignored stuck => simp [hf] at stuck
  | raised => cases ht
  | read source | readStuck source | readRaised source => cases source

theorem payloadOf_stamped (k : Nat) (s : State) : payloadOf (stamped k s) k = payloadOf s k :=
  payloadOf_of_header (s := s)

theorem wordAt_stamped_header (k : Nat) (s : State) :
    wordAt (stamped k s) (headerAddr s.cfg k) = crcWords (payloadOf s k) := by
  rw [wordAt, bufGet_stamped_header]
  rfl

/-- A stamp leaves its payload readable and makes its header so. -/
theorem readable_stamped {s : State} {k : Nat} (h : Stampable s k) :
    (∀ x ∈ payloadAddrs s.cfg k, Readable (stamped k s) x) ∧
      Readable (stamped k s) (headerAddr s.cfg k) := by
  refine ⟨h.of_header.1, readRace_of_no_writeRace h.2, ?_⟩
  rw [bufGet_stamped_header]
  rfl

/-- Settles O29: the check reads the payload the stamp read, and the header the stamp wrote. -/
theorem stampedChunkAlwaysChecks : Obligations.StampedChunkAlwaysChecks := by
  intro s t k hv hf h ht
  obtain ⟨-, -, hC, -⟩ := (configValid_iff s.cfg).mp hv
  obtain ⟨hk, hb, hs⟩ := stampable_of_crcStamp h hf ht
  rw [exec_crcStamp_stampable hf hk hC hb hs] at h
  cases h
  obtain ⟨hpayload, hheader⟩ := readable_stamped hs
  have hcheck := crcCheckComparesTheHeader (stamped k s) k hv hf hk hb hpayload hheader
  have hmatch : decide (crcWords (payloadOf (stamped k s) k) =
      wordAt (stamped k s) (headerAddr (stamped k s).cfg k)) = true :=
    decide_eq_true (by rw [payloadOf_stamped]; exact (wordAt_stamped_header k s).symm)
  rw [hmatch, payloadOf_stamped] at hcheck
  exact hcheck

end Sys2Proof.Machine
end

section
/-! The exchange step by step (41_frame_exchange.md R131 to R141): what each chip-select event, the trigger, the
link and the two channels make of a state in which they are enabled, and where they are not. -/

namespace Sys2Proof.Machine

/-! ### Chip select (R131 to R135) -/

theorem exec_csPin {s : State} {level : Bool} (hf : s.faulted = false) (hr : s.cfg.role = .worker)
    (hl : level ≠ s.csPin) :
    exec (.csPin level) s = .next { s with csPin := level, csIrq := true } := by
  change execCsPin level s = _
  rw [execCsPin, event_enabled hf (by simp [hr, hl])]

theorem exec_csPin_refused {s : State} {level : Bool}
    (h : ¬ (s.cfg.role = .worker ∧ level ≠ s.csPin)) :
    exec (.csPin level) s = .refused .notEnabled := by
  change execCsPin level s = _
  rw [execCsPin, event_disabled (by simpa using h)]

theorem exec_csGlitch {s : State} (hf : s.faulted = false) (hr : s.cfg.role = .worker) :
    exec .csGlitch s = .next { s with csIrq := true } := by
  change execCsGlitch s = _
  rw [execCsGlitch, event_enabled hf (decide_eq_true hr)]

theorem exec_csGlitch_refused {s : State} (hr : s.cfg.role ≠ .worker) :
    exec .csGlitch s = .refused .notEnabled := by
  change execCsGlitch s = _
  rw [execCsGlitch, event_disabled (decide_eq_false hr)]

/-- Settles O30: the labels decode to the two events, and each goes through the gate of R229. -/
theorem chipSelectNotificationsLatch : Obligations.ChipSelectNotificationsLatch :=
  ⟨by decide, by decide, by decide, fun _ _ hf => ⟨fun h => exec_csPin hf h.1 h.2,
    exec_csPin_refused, exec_csGlitch hf, exec_csGlitch_refused⟩⟩

theorem exec_csIsr {s : State} (hf : s.faulted = false) (hr : s.cfg.role = .worker)
    (hq : s.csIrq = true) : exec .csIsr s = .next (csEdge { s with csIrq := false }) := by
  change execCsIsr s = _
  rw [execCsIsr, event_enabled hf (by simp [hr, hq])]

theorem exec_csIsr_refused {s : State} (h : ¬ (s.cfg.role = .worker ∧ s.csIrq = true)) :
    exec .csIsr s = .refused .notEnabled := by
  change execCsIsr s = _
  rw [execCsIsr, event_disabled (by simpa using h)]

/-- At an unchanged level the handler takes the notification back and does nothing else (R133). -/
theorem exec_csIsr_same {s : State} (hf : s.faulted = false) (hr : s.cfg.role = .worker)
    (hq : s.csIrq = true) (h : s.csPin = s.lastLevel) :
    exec .csIsr s = .next { s with csIrq := false } := by
  rw [exec_csIsr hf hr hq, csEdge_eq]
  exact congrArg _ (if_pos h)

theorem exec_csIsr_falling {s : State} (hf : s.faulted = false) (hr : s.cfg.role = .worker)
    (hq : s.csIrq = true) (hp : s.csPin = false) (hl : s.lastLevel = true) :
    exec .csIsr s = .next (armTransfer { s with csIrq := false, lastLevel := false }) := by
  rw [exec_csIsr hf hr hq]
  exact congrArg _ (csEdge_falling (s := { s with csIrq := false }) hp hl)

theorem exec_csIsr_rising {s : State} (hf : s.faulted = false) (hr : s.cfg.role = .worker)
    (hq : s.csIrq = true) (hp : s.csPin = true) (hl : s.lastLevel = false) :
    exec .csIsr s = .next (closeFrame { s with csIrq := false, lastLevel := true }) := by
  rw [exec_csIsr hf hr hq]
  exact congrArg _ (csEdge_rising (s := { s with csIrq := false }) hp hl)

/-- Settles O31, by the edge between LAST_LEVEL and the level read. -/
theorem chipSelectHandlerActsOnEdges : Obligations.ChipSelectHandlerActsOnEdges := by
  refine ⟨by decide, fun s hf => ⟨fun hr hq => ⟨exec_csIsr_same hf hr hq, fun hp hl => ?_,
    fun hp hl => ?_⟩, exec_csIsr_refused⟩⟩
  · rw [exec_csIsr_falling hf hr hq hp hl]
    simp [armTransfer_eq]
  · rw [exec_csIsr_rising hf hr hq hp hl]
    rfl

/-! ### Sequences of steps -/

theorem execAll_cons {i : Instr} {is : List Instr} {s t : State} (h : exec i s = .next t) :
    execAll (i :: is) s = execAll is t := by
  rw [execAll, h]

theorem execAll_append (is js : List Instr) (s : State) :
    execAll (is ++ js) s = (execAll is s).bind (execAll js) := by
  induction is generalizing s with
  | nil => rfl
  | cons i is ih =>
    simp only [List.cons_append, execAll]
    cases exec i s with
    | next t => exact ih t
    | fault | refused => rfl

/-! ### Noise (R154) -/

/-- One noise notification, handled at the level it came at. -/
theorem execAll_noise {s : State} (hf : s.faulted = false) (hr : s.cfg.role = .worker)
    (h : s.csPin = s.lastLevel) : execAll [.csGlitch, .csIsr] s = some { s with csIrq := false } := by
  rw [execAll_cons (exec_csGlitch hf hr),
    execAll_cons (exec_csIsr_same (s := { s with csIrq := true }) hf hr rfl h)]
  rfl

/-- Settles O32: the handler decides by the level it reads, and finds no edge either way. -/
theorem noiseAndMissedPulsesArmNothing : Obligations.NoiseAndMissedPulsesArmNothing := by
  intro s hf hr h
  refine ⟨fun n => ?_, ?_⟩
  · induction n generalizing s with
    | zero => exact execAll_noise hf hr h
    | succ n ih =>
      rw [List.replicate_succ, List.flatten_cons, execAll_append, execAll_noise hf hr h]
      exact ih { s with csIrq := false } hf hr h
  · rw [execAll_cons (exec_csPin hf hr (by simp)),
      execAll_cons (exec_csPin (s := { s with csPin := !s.csPin, csIrq := true }) hf hr (by simp)),
      execAll_cons (exec_csIsr_same (s := { s with csIrq := true }) hf hr rfl h)]
    rfl

/-! ### The controller's trigger (R136) -/

theorem exec_fxTrigger_controller {s : State} (hf : s.faulted = false)
    (hr : s.cfg.role = .controller) :
    exec .fxTrigger s = .next { armTransfer s with ctlLeft := xferCount s.cfg } := by
  change execFxTrigger s = _
  rw [execFxTrigger, command_running hf, require_ok.mpr (decide_eq_true hr)]
  rfl

theorem exec_fxTrigger_worker {s : State} (hf : s.faulted = false) (hr : s.cfg.role = .worker) :
    exec .fxTrigger s = .next (latched 0x09 0x11 0 s) := by
  change execFxTrigger s = _
  rw [execFxTrigger, command_running hf,
    require_error.mpr ⟨decide_eq_false (by simp [hr]), rfl⟩]
  rfl

/-- Settles O33, by the role. -/
theorem triggerArmsTheControllerOrFaults : Obligations.TriggerArmsTheControllerOrFaults := by
  refine fun s hf => ⟨fun hr => ?_, exec_fxTrigger_worker hf⟩
  rw [exec_fxTrigger_controller hf hr]
  simp [armTransfer_eq, xferCount]

/-! ### The link (R137, R138) -/

theorem linkActive_iff (s : State) :
    linkActive s = true ↔
      (s.cfg.role = .worker ∧ s.csPin = false) ∨ (s.cfg.role = .controller ∧ 0 < s.ctlLeft.toNat) := by
  unfold linkActive
  cases s.cfg.role <;> simp

theorem linkActive_controller {s : State} (hr : s.cfg.role = .controller) :
    linkActive s = decide (0 < s.ctlLeft.toNat) := by
  simp [linkActive, hr]

theorem exec_linkWord {s : State} {p : Word} (hf : s.faulted = false) (ha : linkActive s = true) :
    exec (.linkWord p) s = .next { s with
      txFifo := s.txFifo.tail
      wireOut := s.wireOut ++ [s.txFifo.headD none]
      rxFifo :=
        if s.rxEn = true ∧ s.rxFifo.length < s.cfg.rxFifoDepth then s.rxFifo ++ [p] else s.rxFifo
      ctlLeft := if s.cfg.role = .controller then s.ctlLeft - 1 else s.ctlLeft } := by
  change execLinkWord p s = _
  rw [execLinkWord, event_enabled hf ha, countWord_eq, shiftIn_eq]
  simp [shiftOut]

theorem exec_linkWord_refused {s : State} {p : Word} (ha : linkActive s = false) :
    exec (.linkWord p) s = .refused .notEnabled := by
  change execLinkWord p s = _
  rw [execLinkWord, event_disabled ha]

/-- The label of R76's row, its data word in B[15:0] (R77). -/
theorem encode_linkWord (p : Word) : encode (.linkWord p) = (0x840000000000 : BitVec 48) ++ p := by
  have hfields : ((0x84 : Byte) ++ (0 : BitVec 16) ++ (0 : Byte)) ++ p.setWidth 32 =
      (0x840000000000 : BitVec 48) ++ p := by
    apply BitVec.eq_of_toNat_eq
    rw [BitVec.toNat_append, BitVec.toNat_append, BitVec.toNat_setWidth_of_le (by decide)]
    rfl
  exact hfields

/-- Settles O34: the label is the step's encoding, and the gate is LinkActive. -/
theorem linkWordExchangesOneWord : Obligations.LinkWordExchangesOneWord := by
  intro s p hf
  refine ⟨encode_linkWord p ▸ decodeOfEncodeIsTheInstruction _ rfl, ?_⟩
  intro active
  have hactive : linkActive s = true ↔ active := linkActive_iff s
  exact ⟨fun h => exec_linkWord hf (hactive.mpr h),
    fun h => exec_linkWord_refused (Bool.eq_false_of_not_eq_true (mt hactive.mp h))⟩

/-! ### The channels (R139 to R141) -/

/-- A running channel's index does not wrap before XFER_LEN (R30). -/
theorem toNat_index_succ {c : Config} {idx : U32} (hv : configValid c = true)
    (hlt : idx.toNat < c.xferLen) : (idx + 1).toNat = idx.toNat + 1 := by
  have hc := (configValid_iff c).mp hv
  rw [BitVec.toNat_add]
  exact Nat.mod_eq_of_lt (by simp; omega)

theorem chanAfter_run {c : Config} {idx : U32} (hv : configValid c = true)
    (hlt : idx.toNat < c.xferLen) :
    chanAfter c (idx + 1) .run = if idx.toNat + 1 = c.xferLen then .done else .run := by
  simp only [chanAfter, ← BitVec.toNat_inj, toNat_index_succ hv hlt, xferCount_toNat hv]

theorem exec_dmaTxStep {s : State} (hv : configValid s.cfg = true) (hf : s.faulted = false)
    (hrun : s.txCh = .run) (hroom : s.txFifo.length < s.cfg.txFifoDepth)
    (hlt : s.txIdx.toNat < s.cfg.xferLen) :
    exec .dmaTxStep s = .next { s with
      txFifo := s.txFifo ++ [bufGet s (s.cfg.txBase + s.txIdx.toNat)]
      txIdx := s.txIdx + 1
      txCh := if s.txIdx.toNat + 1 = s.cfg.xferLen then .done else .run } := by
  have hc := (configValid_iff s.cfg).mp hv
  have hin : txAddr s < bufWords s.cfg := by
    unfold txAddr
    omega
  change execDmaTxStep s = _
  rw [execDmaTxStep, event_enabled hf (by simp [hrun, hroom]), if_pos hin, hrun, chanAfter_run hv hlt]
  rfl

theorem exec_dmaTxStep_refused {s : State}
    (h : s.txCh ≠ .run ∨ s.cfg.txFifoDepth ≤ s.txFifo.length) :
    exec .dmaTxStep s = .refused .notEnabled := by
  change execDmaTxStep s = _
  rw [execDmaTxStep, event_disabled (by simpa [imp_iff_not_or] using h)]

theorem exec_dmaTxIsr {s : State} (hf : s.faulted = false) (hd : s.txCh = .done) :
    exec .dmaTxIsr s = .next { s with pendTx := false, txCh := .idle } := by
  change execDmaTxIsr s = _
  rw [execDmaTxIsr, event_enabled hf (decide_eq_true hd)]

theorem exec_dmaTxIsr_refused {s : State} (hd : s.txCh ≠ .done) :
    exec .dmaTxIsr s = .refused .notEnabled := by
  change execDmaTxIsr s = _
  rw [execDmaTxIsr, event_disabled (decide_eq_false hd)]

/-- Settles O35: the address lies in the buffer, and the index reaches XFER_LEN without wrapping. -/
theorem transmitChannelMovesAndCompletes : Obligations.TransmitChannelMovesAndCompletes :=
  ⟨by decide, by decide, fun _ hv hf => ⟨exec_dmaTxStep hv hf, exec_dmaTxStep_refused,
    exec_dmaTxIsr hf, exec_dmaTxIsr_refused⟩⟩

theorem exec_dmaRxStep {s : State} {p : Word} {q : List Word} (hv : configValid s.cfg = true)
    (hf : s.faulted = false) (hrun : s.rxCh = .run) (hq : s.rxFifo = p :: q)
    (hlt : s.rxIdx.toNat < s.cfg.xferLen) :
    exec .dmaRxStep s = .next { bufSet (s.cfg.rxBase + s.rxIdx.toNat) p s with
      rxFifo := q
      rxIdx := s.rxIdx + 1
      rxCh := if s.rxIdx.toNat + 1 = s.cfg.xferLen then .done else .run } := by
  have hc := (configValid_iff s.cfg).mp hv
  have hin : rxAddr s < bufWords s.cfg := by
    unfold rxAddr
    omega
  change execDmaRxStep s = _
  rw [execDmaRxStep, event_enabled hf (by simp [hrun, hq]), if_pos hin, hrun, chanAfter_run hv hlt, hq]
  rfl

theorem exec_dmaRxStep_refused {s : State} (h : s.rxCh ≠ .run ∨ s.rxFifo = []) :
    exec .dmaRxStep s = .refused .notEnabled := by
  change execDmaRxStep s = _
  rw [execDmaRxStep, event_disabled (by simpa [imp_iff_not_or] using h)]

/-- Settles O36: one store at RX_BASE + RX_IDX, and no other. -/
theorem receiveChannelStoresTheFifoHead : Obligations.ReceiveChannelStoresTheFifoHead := by
  refine ⟨by decide, fun s hv hf => ⟨fun p q hrun hq hlt => ?_, exec_dmaRxStep_refused⟩⟩
  exact ⟨_, exec_dmaRxStep hv hf hrun hq hlt, rfl, bufGet_bufSet_same _ p s,
    fun x hx => bufGet_bufSet_other p s hx⟩

end Sys2Proof.Machine
end

section
/-! A whole frame (R153, R155, R137): one round of channel, link, channel moves one word each way, and a
controller's clock counts one word per LINK.WORD. -/

namespace Sys2Proof.Machine

/-! ### The words sent and the words stored -/

theorem frameWord_eq (s : State) (ps : List Word) (j : Nat) :
    frameWord s ps j =
      if s.cfg.rxBase ≤ s.cfg.txBase + j ∧ s.cfg.txBase + j < s.cfg.rxBase + j then
        ps[s.cfg.txBase + j - s.cfg.rxBase]?
      else bufGet s (s.cfg.txBase + j) := rfl

/-- A word that goes out does not depend on what the peer sends with it or later. -/
theorem frameWord_append {s : State} {ps : List Word} {j : Nat} (hj : j ≤ ps.length) (p : Word) :
    frameWord s (ps ++ [p]) j = frameWord s ps j := by
  rw [frameWord_eq, frameWord_eq]
  split
  · rw [List.getElem?_append_left (by omega)]
  · rfl

theorem map_frameWord_append (s : State) (ps : List Word) (p : Word) :
    (List.range (ps ++ [p]).length).map (frameWord s (ps ++ [p])) =
      (List.range ps.length).map (frameWord s ps) ++ [frameWord s ps ps.length] := by
  have hsame : (List.range ps.length).map (frameWord s (ps ++ [p])) =
      (List.range ps.length).map (frameWord s ps) :=
    List.map_congr_left fun j hj => frameWord_append (List.mem_range.mp hj).le p
  rw [List.length_append, List.length_singleton, List.range_succ, List.map_append, hsame,
    List.map_singleton, frameWord_append le_rfl]

/-- The word at a when the peer's words `ps` lie in the receive region from its start and all other words are
as in s. -/
def frameBuf (s : State) (ps : List Word) (a : Nat) : Option Word :=
  if s.cfg.rxBase ≤ a ∧ a < s.cfg.rxBase + ps.length then ps[a - s.cfg.rxBase]? else bufGet s a

/-- The transmit channel takes each word as it is when its turn comes. -/
theorem frameBuf_next (s : State) (ps : List Word) :
    frameBuf s ps (s.cfg.txBase + ps.length) = frameWord s ps ps.length := rfl

theorem frameBuf_append (s : State) (ps : List Word) (p : Word) (a : Nat) :
    frameBuf s (ps ++ [p]) a = if a = s.cfg.rxBase + ps.length then some p else frameBuf s ps a := by
  unfold frameBuf
  rw [List.length_append, List.length_singleton]
  rcases Nat.lt_trichotomy a (s.cfg.rxBase + ps.length) with ha | ha | ha
  · rw [if_neg ha.ne]
    by_cases hb : s.cfg.rxBase ≤ a
    · rw [if_pos ⟨hb, by omega⟩, if_pos ⟨hb, ha⟩, List.getElem?_append_left (by omega)]
    · rw [if_neg fun hc => hb hc.1, if_neg fun hc => hb hc.1]
  · subst ha
    simp
  · rw [if_neg ha.ne', if_neg (by omega), if_neg (by omega)]

/-! ### A frame in progress -/

/-- The words `ps` of a frame have moved since s, and as many words went out. -/
structure FrameMoving (s u : State) (ps : List Word) : Prop where
  cfg : u.cfg = s.cfg
  running : u.faulted = false
  selected : s.cfg.role = .worker → u.csPin = false
  clocks : s.cfg.role = .controller → u.ctlLeft.toNat + ps.length = s.cfg.xferLen
  enabled : u.rxEn = true
  txEmpty : u.txFifo = []
  rxEmpty : u.rxFifo = []
  txIdx : u.txIdx.toNat = ps.length
  rxIdx : u.rxIdx.toNat = ps.length
  txCh : u.txCh = if ps.length = s.cfg.xferLen then .done else .run
  rxCh : u.rxCh = if ps.length = s.cfg.xferLen then .done else .run
  words : ∀ a, bufGet u a = frameBuf s ps a
  sent : u.wireOut = s.wireOut ++ (List.range ps.length).map (frameWord s ps)

section

variable {s u : State} {ps : List Word}

/-- While words of the frame are left the link is active (R137). -/
theorem FrameMoving.linkActive (h : FrameMoving s u ps) (hlt : ps.length < s.cfg.xferLen) :
    linkActive u = true := by
  rw [linkActive_iff, h.cfg]
  cases hr : s.cfg.role with
  | worker => exact .inl ⟨rfl, h.selected hr⟩
  | controller =>
    have := h.clocks hr
    exact .inr ⟨rfl, by omega⟩

/-- The transmit channel's part of a round: the word it reads is in TXFIFO. -/
def roundTaken (u : State) : State :=
  { u with
    txFifo := [bufGet u (u.cfg.txBase + u.txIdx.toNat)]
    txIdx := u.txIdx + 1
    txCh := if u.txIdx.toNat + 1 = u.cfg.xferLen then .done else .run }

/-- After the link's part of a round: that word has gone out, and p is in RXFIFO. -/
def roundExchanged (p : Word) (u : State) : State :=
  { roundTaken u with
    txFifo := []
    wireOut := u.wireOut ++ [bufGet u (u.cfg.txBase + u.txIdx.toNat)]
    rxFifo := [p]
    ctlLeft := if u.cfg.role = .controller then u.ctlLeft - 1 else u.ctlLeft }

/-- After the receive channel's part of a round: p is stored. -/
def roundStored (p : Word) (u : State) : State :=
  { bufSet (u.cfg.rxBase + u.rxIdx.toNat) p (roundExchanged p u) with
    rxFifo := []
    rxIdx := u.rxIdx + 1
    rxCh := if u.rxIdx.toNat + 1 = u.cfg.xferLen then .done else .run }

theorem execAll_round (hv : configValid u.cfg = true) (hf : u.faulted = false)
    (ha : linkActive u = true) (hen : u.rxEn = true) (htx : u.txFifo = []) (hrx : u.rxFifo = [])
    (htc : u.txCh = .run) (hrc : u.rxCh = .run) (hti : u.txIdx.toNat < u.cfg.xferLen)
    (hri : u.rxIdx.toNat < u.cfg.xferLen) (p : Word) :
    execAll [.dmaTxStep, .linkWord p, .dmaRxStep] u = some (roundStored p u) := by
  obtain ⟨-, -, -, -, -, -, -, -, htd, hrd, -⟩ := (configValid_iff u.cfg).mp hv
  have htaken : exec .dmaTxStep u = .next (roundTaken u) := by
    rw [exec_dmaTxStep hv hf htc (by rwa [htx]) hti, htx]
    rfl
  have hexchanged : exec (.linkWord p) (roundTaken u) = .next (roundExchanged p u) := by
    have hroom : 0 < u.cfg.rxFifoDepth := hrd
    rw [exec_linkWord (s := roundTaken u) hf ha]
    simp [roundTaken, roundExchanged, hen, hrx, hroom]
  have hstored : exec .dmaRxStep (roundExchanged p u) = .next (roundStored p u) :=
    exec_dmaRxStep (s := roundExchanged p u) hv hf hrc rfl hri
  rw [execAll_cons htaken, execAll_cons hexchanged, execAll_cons hstored]
  rfl

/-- A round stores p and no other word. -/
theorem bufGet_roundStored (p : Word) (u : State) (a : Nat) :
    bufGet (roundStored p u) a =
      if a = u.cfg.rxBase + u.rxIdx.toNat then some p else bufGet u a := by
  split
  case isTrue ha =>
    rw [ha]
    exact bufGet_bufSet_same _ p u
  case isFalse ha => exact bufGet_bufSet_other p u ha

/-- A round moves one more word each way. -/
theorem FrameMoving.round (h : FrameMoving s u ps) (hv : configValid s.cfg = true)
    (hlt : ps.length < s.cfg.xferLen) (p : Word) :
    execAll [.dmaTxStep, .linkWord p, .dmaRxStep] u = some (roundStored p u) ∧
      FrameMoving s (roundStored p u) (ps ++ [p]) := by
  have hactive := h.linkActive hlt
  obtain ⟨hcfg, hf, hsel, hclk, hen, htx, hrx, hti, hri, htc, hrc, hw, hsent⟩ := id h
  rw [if_neg hlt.ne] at htc hrc
  rw [← hcfg] at hv
  have htlt : u.txIdx.toNat < u.cfg.xferLen := by rwa [hti, hcfg]
  have hrlt : u.rxIdx.toNat < u.cfg.xferLen := by rwa [hri, hcfg]
  refine ⟨execAll_round hv hf hactive hen htx hrx htc hrc htlt hrlt p, ?_⟩
  have hlen : (ps ++ [p]).length = ps.length + 1 := List.length_append
  exact {
    cfg := hcfg
    running := hf
    selected := hsel
    clocks := fun hr => by
      have hleft := hclk hr
      have hcount : (roundStored p u).ctlLeft = u.ctlLeft - 1 := if_pos (hcfg ▸ hr)
      rw [hcount, hlen]
      bv_omega
    enabled := hen
    txEmpty := rfl
    rxEmpty := rfl
    txIdx := by
      rw [hlen, ← hti]
      exact toNat_index_succ hv htlt
    rxIdx := by
      rw [hlen, ← hri]
      exact toNat_index_succ hv hrlt
    txCh := by
      rw [hlen, ← hti, ← hcfg]
      rfl
    rxCh := by
      rw [hlen, ← hri, ← hcfg]
      rfl
    words := fun a => by
      rw [bufGet_roundStored, hw, hri, hcfg, frameBuf_append]
    sent := by
      have hout : (roundStored p u).wireOut =
          u.wireOut ++ [bufGet u (u.cfg.txBase + u.txIdx.toNat)] := rfl
      rw [hout, hcfg, hti, hw, frameBuf_next, hsent, map_frameWord_append, List.append_assoc] }

end

/-! ### The whole frame -/

/-- From its start the frame moves word by word. -/
theorem FrameMoving.rounds {s u : State} (h : FrameMoving s u []) (hv : configValid s.cfg = true)
    {ps : List Word} (hle : ps.length ≤ s.cfg.xferLen) :
    ∃ v, execAll (frameSteps ps) u = some v ∧ FrameMoving s v ps := by
  induction ps using List.reverseRecOn with
  | nil => exact ⟨u, rfl, h⟩
  | append_singleton ps p ih =>
    rw [List.length_append, List.length_singleton] at hle
    obtain ⟨v, hv', hmoving⟩ := ih (by omega)
    obtain ⟨hround, hnext⟩ := hmoving.round hv hle p
    refine ⟨_, ?_, hnext⟩
    rw [frameSteps, List.flatMap_append, execAll_append, ← frameSteps, hv']
    exact hround

/-- When XFER_LEN words have moved the frame has moved. -/
theorem FrameMoving.moved {s u : State} {ps : List Word} (h : FrameMoving s u ps)
    (hlen : ps.length = s.cfg.xferLen) : FrameMoved s u ps where
  txDone := h.txCh.trans (if_pos hlen)
  rxDone := h.rxCh.trans (if_pos hlen)
  txEmpty := h.txEmpty
  rxEmpty := h.rxEmpty
  received j hj := by
    rw [h.words, frameBuf, if_pos (by omega), Nat.add_sub_cancel_left, List.getElem?_eq_getElem hj]
  others a ha := by
    rw [h.words, frameBuf, if_neg]
    rw [hlen]
    simpa [inRxr] using ha
  sent := hlen ▸ h.sent

theorem armTransfer_ctlLeft (s : State) (left : U32) :
    armTransfer { s with ctlLeft := left } = { armTransfer s with ctlLeft := left } := by
  rw [armTransfer_eq, armTransfer_eq]

/-- Arming with empty FIFOs starts a frame, whatever the chip-select handler or the trigger writes with it
(R133, R134, R136). -/
theorem frameMoving_of_armed {s : State} {left : U32} (irq last : Bool) (hv : configValid s.cfg = true)
    (hf : s.faulted = false) (htx : s.txFifo = []) (hrx : s.rxFifo = [])
    (hsel : s.cfg.role = .worker → s.csPin = false)
    (hclk : s.cfg.role = .controller → left.toNat = s.cfg.xferLen) :
    FrameMoving s (armTransfer { s with csIrq := irq, lastLevel := last, ctlLeft := left }) [] := by
  obtain ⟨-, -, -, -, -, hpos, -⟩ := (configValid_iff s.cfg).mp hv
  have hrun : (if ([] : List Word).length = s.cfg.xferLen then Chan.done else .run) = .run :=
    if_neg (Nat.ne_of_lt hpos)
  rw [armTransfer_eq]
  exact {
    cfg := rfl
    running := hf
    selected := hsel
    clocks := hclk
    enabled := rfl
    txEmpty := htx
    rxEmpty := hrx
    txIdx := rfl
    rxIdx := rfl
    txCh := hrun.symm
    rxCh := hrun.symm
    words := fun a => (if_neg (by simp)).symm
    sent := (List.append_nil _).symm }

theorem frameMoves_worker {s : State} {ps : List Word} (hv : configValid s.cfg = true)
    (hf : s.faulted = false) (htx : s.txFifo = []) (hrx : s.rxFifo = [])
    (hlen : ps.length = s.cfg.xferLen) (hr : s.cfg.role = .worker) (hp : s.csPin = false)
    (hl : s.lastLevel = true) (hq : s.csIrq = true) :
    ∃ u, execAll (.csIsr :: frameSteps ps) s = some u ∧ FrameMoved s u ps := by
  have hstart : FrameMoving s (armTransfer { s with csIrq := false, lastLevel := false }) [] :=
    frameMoving_of_armed (left := s.ctlLeft) false false hv hf htx hrx (fun _ => hp) fun hc => by
      simp [hr] at hc
  obtain ⟨u, hu, hmoving⟩ := hstart.rounds hv hlen.le
  exact ⟨u, by rw [execAll_cons (exec_csIsr_falling hf hr hq hp hl), hu], hmoving.moved hlen⟩

theorem frameMoves_controller {s : State} {ps : List Word} (hv : configValid s.cfg = true)
    (hf : s.faulted = false) (htx : s.txFifo = []) (hrx : s.rxFifo = [])
    (hlen : ps.length = s.cfg.xferLen) (hr : s.cfg.role = .controller) :
    ∃ u, execAll (.fxTrigger :: frameSteps ps) s = some u ∧ FrameMoved s u ps ∧ u.ctlLeft = 0 ∧
      ∀ p, exec (.linkWord p) u = .refused .notEnabled := by
  have hstart : FrameMoving s { armTransfer s with ctlLeft := xferCount s.cfg } [] := by
    rw [← armTransfer_ctlLeft]
    exact frameMoving_of_armed s.csIrq s.lastLevel hv hf htx hrx (fun hw => by simp [hr] at hw)
      fun _ => xferCount_toNat hv
  obtain ⟨u, hu, hmoving⟩ := hstart.rounds hv hlen.le
  have hleft : u.ctlLeft.toNat = 0 := by
    have := hmoving.clocks hr
    omega
  have hinactive : linkActive u = false := by
    rw [linkActive_controller (hmoving.cfg ▸ hr), hleft]
    rfl
  exact ⟨u, by rw [execAll_cons (exec_fxTrigger_controller hf hr), hu], hmoving.moved hlen,
    BitVec.eq_of_toNat_eq hleft, fun _ => exec_linkWord_refused hinactive⟩

/-! ### The controller's clock (R136 to R138) -/

theorem isLinkWord_iff {i : Instr} : isLinkWord i = true ↔ ∃ p, i = .linkWord p := by
  cases i <;> simp [isLinkWord, opcode]

/-- CTL_LEFT is written by the trigger and the link only (R33). -/
theorem ctlLeft_kept {i : Instr} {s t : State} (h : exec i s = .next t) (htrig : i ≠ .fxTrigger)
    (hlink : isLinkWord i = false) : t.ctlLeft = s.ctlLeft := by
  obtain ⟨-, -, -, -, -, -, -, -, -, -, -, -, -, -, -, -, hleft, -⟩ :=
    onlyTheNamedStepsWriteEachElement i s t h
  rcases hleft with hkept | htrigger | hword
  · exact hkept
  · exact absurd htrigger htrig
  · simp [isLinkWord_iff.mpr hword] at hlink

/-- A word time is one in which the link was active (R138). -/
theorem linkWord_next {p : Word} {s t : State} (h : exec (.linkWord p) s = .next t) :
    linkActive s = true ∧
      t.ctlLeft = if s.cfg.role = .controller then s.ctlLeft - 1 else s.ctlLeft := by
  obtain ⟨hf, ha, -⟩ := event_next (show execLinkWord p s = .next t from h)
  rw [exec_linkWord hf ha] at h
  cases h
  exact ⟨ha, rfl⟩

/-- Each word time of a controller takes one from CTL_LEFT, and no other step but the trigger does. -/
theorem ctlLeft_counts {i : Instr} {s t : State} (hr : s.cfg.role = .controller)
    (h : exec i s = .next t) (htrig : i ≠ .fxTrigger) :
    t.ctlLeft.toNat + (if isLinkWord i then 1 else 0) = s.ctlLeft.toNat := by
  by_cases hlink : isLinkWord i = true
  · obtain ⟨p, rfl⟩ := isLinkWord_iff.mp hlink
    obtain ⟨hactive, hleft⟩ := linkWord_next h
    rw [linkActive_controller hr, decide_eq_true_iff] at hactive
    rw [hleft, if_pos hr, if_pos hlink]
    bv_omega
  · rw [ctlLeft_kept h htrig (Bool.eq_false_of_not_eq_true hlink), if_neg hlink, Nat.add_zero]

theorem execAll_cons_some {i : Instr} {is : List Instr} {s u : State} :
    execAll (i :: is) s = some u ↔ ∃ t, exec i s = .next t ∧ execAll is t = some u := by
  rw [execAll]
  cases exec i s <;> simp

theorem ctlLeft_counts_all {is : List Instr} {s u : State} (hr : s.cfg.role = .controller)
    (htrig : .fxTrigger ∉ is) (h : execAll is s = some u) :
    is.countP isLinkWord + u.ctlLeft.toNat = s.ctlLeft.toNat ∧ u.cfg = s.cfg := by
  induction is generalizing s with
  | nil =>
    cases h
    simp
  | cons i is ih =>
    obtain ⟨t, ht, hu⟩ := execAll_cons_some.mp h
    obtain ⟨hi, his⟩ := not_or.mp (mt List.mem_cons.mpr htrig)
    have hcfg := (exec_next ht).cfg_inputs.1
    have hstep := ctlLeft_counts hr ht (Ne.symm hi)
    obtain ⟨hcount, hcfg'⟩ := ih (hcfg ▸ hr) his hu
    rw [List.countP_cons]
    exact ⟨by omega, hcfg'.trans hcfg⟩

theorem enabled_linkWord {u : State} (hf : u.faulted = false) (p : Word) :
    enabled (.linkWord p) u = linkActive u := by
  cases ha : linkActive u with
  | true => simp [enabled, exec_linkWord hf ha]
  | false => simp [enabled, exec_linkWord_refused ha]

/-- Settles O47: arming starts a frame that the rounds carry on word by word, and after a trigger the words
clocked and CTL_LEFT make XFER_LEN at every step. -/
theorem frameMovesEveryWord : Obligations.FrameMovesEveryWord := by
  refine ⟨fun s ps hv hf htx hrx hlen => ⟨frameMoves_worker hv hf htx hrx hlen,
    frameMoves_controller hv hf htx hrx hlen⟩, fun s u is hv hf hr htrig h => ?_⟩
  rw [execAll_cons (exec_fxTrigger_controller hf hr)] at h
  have hkept : (armTransfer s).cfg = s.cfg := by rw [armTransfer_eq]
  obtain ⟨hcount, hcfg⟩ := ctlLeft_counts_all (hkept ▸ hr) htrig h
  have hsum : is.countP isLinkWord + u.ctlLeft.toNat = s.cfg.xferLen :=
    hcount.trans (xferCount_toNat hv)
  refine ⟨hsum, fun hfu p => ?_⟩
  rw [enabled_linkWord hfu, linkActive_controller ((hcfg.trans hkept) ▸ hr), decide_eq_decide]
  omega

end Sys2Proof.Machine
end

section
/-! The receive-complete handler (R142, R143, R150): the verification finds a fault at the first unwritten word,
else records every received slot; either way it reads the buffer and writes the mismatch record alone. -/

namespace Sys2Proof.Machine

/-! ### First failing words -/

/-- The first failing address of two lists is the first list's, or else the second's. -/
theorem firstFailing_append {P : Nat → Prop} {l m : List Nat} {x : Nat}
    (h : FirstFailing P (l ++ m) x) :
    FirstFailing P l x ∨ ((∀ y ∈ l, P y) ∧ FirstFailing P m x) := by
  obtain ⟨before, after, heq, hbefore, hx⟩ := h
  rcases List.append_eq_append_iff.mp heq with ⟨mid, rfl, hm⟩ | ⟨mid, rfl, hm⟩
  · exact .inr ⟨fun y hy => hbefore y (List.mem_append_left _ hy),
      mid, after, hm, fun y hy => hbefore y (List.mem_append_right _ hy), hx⟩
  · cases mid with
    | nil =>
      refine .inr ⟨by simpa using hbefore, [], after, hm.symm, by simp, hx⟩
    | cons y mid =>
      rw [List.cons_append, List.cons.injEq] at hm
      obtain ⟨rfl, -⟩ := hm
      exact .inl ⟨before, mid, rfl, hbefore, hx⟩

/-! ### The verification of one chunk -/

/-- The words the verification of worker slot k reads, in its order: payload, then header (R109). -/
def receivedAddrs (c : Config) (k : Nat) : List Nat :=
  payloadAddrs c (receivedChunk c k) ++ [headerAddr c (receivedChunk c k)]

theorem receivedChunk_lt {c : Config} {k : Nat} (hk : k < c.workers) :
    receivedChunk c k < 2 * c.workers := by
  unfold receivedChunk setChunk measChunk
  cases c.role <;> simp only <;> omega

/-- The verification of a chunk faults at its first unwritten word (R109). -/
theorem chunkOk_unwritten {s : State} {k x : Nat} (hk : k < 2 * s.cfg.workers) (hC : 1 ≤ s.cfg.chunk)
    (h : FirstFailing (Written s) (payloadAddrs s.cfg k ++ [headerAddr s.cfg k]) x) :
    chunkOk s k = .error ⟨.unwrittenRead, x⟩ := by
  have hinside : ∀ y ∈ payloadAddrs s.cfg k, y < bufWords s.cfg := fun y hy =>
    (mem_payloadAddrs.mp hy).2.trans_le (payload_inside hk hC)
  rcases firstFailing_concat h with hpay | ⟨hpay, rfl, hx⟩
  · have hread : readPayload (memRead s) s.cfg k = .error ⟨.unwrittenRead, x⟩ := by
      obtain ⟨before, after, heq, -, hx⟩ := id hpay
      refine readSpan_first (fun y hy hw => ⟨_, memRead_of_written (hinside y hy) hw⟩) ?_ hpay
      exact memRead_of_not_written (hinside x (by simp [heq])) hx
    rw [chunkOk, hread]
    rfl
  · have hread : readPayload (memRead s) s.cfg k = .ok (payloadOf s k) :=
      readSpan_all fun y hy => memRead_of_written (hinside y hy) (hpay y hy)
    have hheader : memRead s (chunkBase s.cfg k) = .error ⟨.unwrittenRead, headerAddr s.cfg k⟩ :=
      memRead_of_not_written (header_inside hk hC) hx
    rw [chunkOk, hread]
    change (memRead s (chunkBase s.cfg k) >>= _) = _
    rw [hheader]
    rfl

/-! ### The record of one chunk -/

theorem recordCheck_cfg (k : Nat) (ok : Bool) (s : State) : (recordCheck k ok s).cfg = s.cfg := by
  rw [recordCheck_eq]

theorem written_recordCheck (k : Nat) (ok : Bool) (s : State) :
    Written (recordCheck k ok s) = Written s := by
  rw [recordCheck_eq]
  rfl

/-- The bit of slot k in MIS_MASK becomes the result, and no other bit changes (R143). -/
theorem recordCheck_misMask {k : Nat} (hk : k < 32) (ok : Bool) (s : State) (j : Nat) :
    (recordCheck k ok s).misMask.getLsbD j = if j = k then !ok else s.misMask.getLsbD j := by
  have hbit : ((1 : U32) <<< k).getLsbD j = decide (k = j) := by
    change (BitVec.twoPow 32 k).getLsbD j = _
    rw [BitVec.getLsbD_twoPow, decide_eq_true hk, Bool.true_and]
  cases ok with
  | false =>
    change (s.misMask ||| (1 : U32) <<< k).getLsbD j = _
    rw [BitVec.getLsbD_or, hbit]
    by_cases hj : j = k <;> simp [hj, eq_comm (a := k)]
  | true =>
    change (s.misMask &&& ~~~((1 : U32) <<< k)).getLsbD j = _
    rw [BitVec.getLsbD_and, BitVec.getLsbD_not, hbit]
    by_cases hj : j = k
    · simp [hj]
    · rw [if_neg hj, decide_eq_false (Ne.symm hj), Bool.not_false, Bool.and_true]
      exact Bool.and_eq_left_iff_imp.mpr fun hbit => decide_eq_true (BitVec.lt_of_getLsbD hbit)

/-! ### The verification of the slots -/

/-- The slots of the list whose received chunk does not match its header. -/
def mismatching (s : State) (ks : List Nat) : List Nat :=
  ks.filter fun k => !chunkMatches s (receivedChunk s.cfg k)

theorem mismatching_recordCheck (k : Nat) (ok : Bool) (s : State) (ks : List Nat) :
    mismatching (recordCheck k ok s) ks = mismatching s ks := by
  rw [recordCheck_eq]
  rfl

theorem mem_mismatching {s : State} {ks : List Nat} {j : Nat} :
    j ∈ mismatching s ks ↔ j ∈ ks ∧ chunkMatches s (receivedChunk s.cfg j) = false := by
  simp [mismatching]

/-- t is s with the slots of the list verified: the mismatching ones counted and listed in order, and the
mask's bits of all of them set to the result. -/
structure Verified (s t : State) (ks : List Nat) : Prop where
  frame : t = { s with
    misMask := t.misMask
    misCnt := s.misCnt + BitVec.ofNat 32 (mismatching s ks).length
    diag := s.diag ++ (mismatching s ks).map .crcMismatch }
  mask : ∀ j, t.misMask.getLsbD j =
    if j ∈ ks then decide (j ∈ mismatching s ks) else s.misMask.getLsbD j

/-- One more slot, verified before the others. -/
theorem Verified.cons {s t : State} {k : Nat} {ks : List Nat} (hk : k < 32)
    (h : Verified (recordCheck k (chunkMatches s (receivedChunk s.cfg k)) s) t ks) :
    Verified s t (k :: ks) := by
  obtain ⟨hframe, hmask⟩ := h
  rw [mismatching_recordCheck] at hframe
  constructor
  · rw [hframe, recordCheck_eq]
    cases hm : chunkMatches s (receivedChunk s.cfg k) with
    | true => simp [mismatching, hm]
    | false =>
      have hcons : mismatching s (k :: ks) = k :: mismatching s ks := by simp [mismatching, hm]
      simp [hcons, BitVec.ofNat_add, BitVec.add_assoc, BitVec.add_comm]
  · intro j
    simp only [hmask, mismatching_recordCheck, recordCheck_misMask hk, mem_mismatching, List.mem_cons]
    by_cases hks : j ∈ ks
    · simp [hks]
    · by_cases hj : j = k
      · subst hj
        simp [hks]
      · simp [hks, hj]

theorem verifySlots_written {ks : List Nat} {s : State} (hC : 1 ≤ s.cfg.chunk) (hW : s.cfg.workers ≤ 32)
    (hks : ∀ k ∈ ks, k < s.cfg.workers)
    (h : ∀ k ∈ ks, ∀ x ∈ receivedAddrs s.cfg k, Written s x) :
    ∃ t, verifySlots ks s = .ok t ∧ Verified s t ks := by
  induction ks generalizing s with
  | nil => exact ⟨s, rfl, by simp [mismatching], by simp⟩
  | cons k ks ih =>
    obtain ⟨hk, hks⟩ := List.forall_mem_cons.mp hks
    obtain ⟨hwk, hw⟩ := List.forall_mem_cons.mp h
    have hcheck := chunkOk_written (receivedChunk_lt hk) hC hwk
    obtain ⟨t, ht, hver⟩ := ih (s := recordCheck k (chunkMatches s (receivedChunk s.cfg k)) s)
      (by rwa [recordCheck_cfg]) (by rwa [recordCheck_cfg]) (by rwa [recordCheck_cfg])
      (by rwa [recordCheck_cfg, written_recordCheck])
    exact ⟨t, verifySlots_cons.mpr ⟨_, hcheck, ht⟩, hver.cons (hk.trans_le hW)⟩

/-- The verification faults at the first unwritten word, in slot and access order (R143, R227). -/
theorem verifySlots_unwritten {ks : List Nat} {s : State} {x : Nat} (hC : 1 ≤ s.cfg.chunk)
    (hks : ∀ k ∈ ks, k < s.cfg.workers)
    (h : FirstFailing (Written s) (ks.flatMap (receivedAddrs s.cfg)) x) :
    verifySlots ks s = .error ⟨.unwrittenRead, x⟩ := by
  induction ks generalizing s with
  | nil =>
    obtain ⟨before, after, heq, -⟩ := h
    simp at heq
  | cons k ks ih =>
    obtain ⟨hk, hks⟩ := List.forall_mem_cons.mp hks
    rcases firstFailing_append h with hfail | ⟨hwk, hfail⟩
    · rw [verifySlots, chunkOk_unwritten (receivedChunk_lt hk) hC hfail]
      rfl
    · rw [verifySlots, chunkOk_written (receivedChunk_lt hk) hC hwk]
      exact ih (by rwa [recordCheck_cfg]) (by rwa [recordCheck_cfg])
        (by rwa [recordCheck_cfg, written_recordCheck])

/-! ### The handler -/

theorem exec_dmaRxIsr {s : State} (hf : s.faulted = false) (hd : s.rxCh = .done) :
    exec .dmaRxIsr s = settle 0x88 s (verifyReceived (endReception s)) := by
  change execDmaRxIsr s = _
  rw [execDmaRxIsr, event_enabled hf (decide_eq_true hd)]
  rfl

theorem exec_dmaRxIsr_refused {s : State} (hd : s.rxCh ≠ .done) :
    exec .dmaRxIsr s = .refused .notEnabled := by
  change execDmaRxIsr s = _
  rw [execDmaRxIsr, event_disabled (decide_eq_false hd)]

theorem verifyReceived_ready {s : State} (hb : s.tableValid = true) :
    verifyReceived s = verifySlots (List.range s.cfg.workers) s := by
  rw [verifyReceived, checkTable, require_ok.mpr hb]
  rfl

theorem verifyReceived_not_ready {s : State} (hb : s.tableValid = false) :
    verifyReceived s = .error ⟨.tableNotReady, 0⟩ := by
  rw [verifyReceived, checkTable, require_error.mpr ⟨hb, rfl⟩]
  rfl

/-- Settles O37: every received chunk is written, so every slot is verified and recorded. -/
theorem receiveHandlerVerifiesEverySlot : Obligations.ReceiveHandlerVerifiesEverySlot := by
  refine fun s hv hf => ⟨fun hd hb hw => ?_, exec_dmaRxIsr_refused⟩
  obtain ⟨-, hW, hC, -⟩ := (configValid_iff s.cfg).mp hv
  obtain ⟨t, ht, hframe, hmask⟩ := verifySlots_written (s := endReception s)
    (ks := List.range s.cfg.workers) hC hW (fun _ hk => List.mem_range.mp hk)
    fun k hk => hw k (List.mem_range.mp hk)
  refine ⟨t, ?_, hframe, fun j => ?_⟩
  · rw [exec_dmaRxIsr hf hd, verifyReceived_ready (s := endReception s) hb]
    exact congrArg (settle _ _) ht
  · rw [hmask]
    exact if_congr List.mem_range rfl rfl

/-- Settles O38: the table's guard comes first, then the reads in their order, and a fault keeps the state
the handler was entered with. -/
theorem receiveHandlerFaultsInOrder : Obligations.ReceiveHandlerFaultsInOrder := by
  intro s hv hf hd
  obtain ⟨-, -, hC, -⟩ := (configValid_iff s.cfg).mp hv
  rw [exec_dmaRxIsr hf hd]
  refine ⟨fun hb => ?_, fun hb x hx => ?_⟩
  · rw [verifyReceived_not_ready (s := endReception s) hb]
    rfl
  · rw [verifyReceived_ready (s := endReception s) hb]
    exact congrArg (settle _ s) (verifySlots_unwritten (s := endReception s) hC
      (fun _ hk => List.mem_range.mp hk) hx)

/-- A handler that latches no fault ends reception and writes the mismatch record, nothing else. -/
theorem dmaRxIsr_frame {s t : State} (h : exec .dmaRxIsr s = .next t) (ht : t.faulted = false) :
    t = { endReception s with misMask := t.misMask, misCnt := t.misCnt, diag := t.diag } := by
  cases exec_next h with
  | completed _ he =>
    cases he
    rfl
  | ignored _ cmd => cases cmd
  | raised => cases ht
  | read source | readStuck source | readRaised source => cases source

/-- Settles O44: both handlers end in the frame of their block, and the blocks differ in the buffer alone. -/
theorem mismatchNeverChangesTheExchange : Obligations.MismatchNeverChangesTheExchange := by
  intro s t u received ht hu hft hfu
  rw [dmaRxIsr_frame ht hft, dmaRxIsr_frame hu hfu]
  rfl

end Sys2Proof.Machine
end

section
/-! The commands of the exchange (R144 to R147): the faults of FX.REFRESH, the application's accesses to the
buffer, and what each role may not do. -/

namespace Sys2Proof.Machine

/-! ### The faults of FX.REFRESH (R144) -/

theorem exec_fxRefresh_not_ready {s : State} (hf : s.faulted = false) (hb : s.tableValid = false) :
    exec .fxRefresh s = .next (latched 0x03 0x10 0 s) := by
  change execFxRefresh s = _
  rw [execFxRefresh, command_running hf, checkTable, require_error.mpr ⟨hb, rfl⟩]
  rfl

/-- A stamping that faults makes the command fault, and undoes what was stamped before (R224). -/
theorem exec_fxRefresh_of_error {s : State} {x : Trap} (hf : s.faulted = false)
    (hb : s.tableValid = true) (h : stampChunks (ownedChunks s.cfg) s = .error x) :
    exec .fxRefresh s = .next (raiseFault 0x10 x s) := by
  change execFxRefresh s = _
  rw [execFxRefresh, command_running hf, checkTable, require_ok.mpr hb, h]
  rfl

theorem stampChunks_append {js ks : List Nat} {s t : State} (h : stampChunks js s = .ok t) :
    stampChunks (js ++ ks) s = stampChunks ks t := by
  induction js generalizing s with
  | nil =>
    cases h
    rfl
  | cons j js ih =>
    obtain ⟨c, u, hu, hjs⟩ := stampChunks_cons.mp h
    rw [List.cons_append, stampChunks, hu]
    exact ih hjs

theorem stampChunks_of_stamp_error {k : Nat} {ks : List Nat} {s : State} {x : Trap}
    (h : stampChunk k s = .error x) : stampChunks (k :: ks) s = .error x := by
  rw [stampChunks, h]
  rfl

/-- Readability looks at the channel, the configuration and the word itself. -/
theorem readable_of_buf {s : State} {m : Memory} {x : Nat} (h : m.get x = bufGet s x) :
    Readable { s with buf := m } x ↔ Readable s x := by
  have hx : bufGet { s with buf := m } x = bufGet s x := h
  unfold Readable
  rw [hx]
  rfl

/-- What the stamping of stampable chunks leaves for the next one: its payload as it was. -/
theorem stampChunks_then {ks : List Nat} {s : State} (hC : 1 ≤ s.cfg.chunk)
    (hks : ∀ k ∈ ks, k < 2 * s.cfg.workers) (h : ∀ k ∈ ks, Stampable s k) :
    ∃ m, stampChunks ks s = .ok { s with buf := m } ∧
      ∀ k, ∀ x ∈ payloadAddrs s.cfg k, m.get x = bufGet s x := by
  obtain ⟨t, ht, -, hothers⟩ := stampChunks_stampable hC hks h
  obtain ⟨m, rfl⟩ := stampChunks_frame ht
  exact ⟨m, ht, fun k x hx => hothers x fun j _ heq => headerAddr_not_payload s.cfg j k (heq ▸ hx)⟩

theorem firstFailing_congr {P Q : Nat → Prop} {l : List Nat} {x : Nat} (h : ∀ y ∈ l, P y ↔ Q y)
    (hx : FirstFailing P l x) : FirstFailing Q l x := by
  obtain ⟨before, after, rfl, hbefore, hfail⟩ := hx
  exact ⟨before, after, rfl, fun y hy => (h y (by simp [hy])).mp (hbefore y hy),
    fun hq => hfail ((h x (by simp)).mpr hq)⟩

/-- Settles O40: the chunks before are stamped, the payload of the failing one is still as it was, and the
fault is latched on the state before the command. -/
theorem refreshFaultsInOrder : Obligations.RefreshFaultsInOrder := by
  intro s hv hf owned
  refine ⟨exec_fxRefresh_not_ready hf, fun hb before k after howned hbefore => ?_⟩
  obtain ⟨-, -, hC, -⟩ := (configValid_iff s.cfg).mp hv
  have hchunks : ownedChunks s.cfg = before ++ k :: after := by
    rw [← howned]
    cases hr : s.cfg.role with
    | worker => simp only [owned, hr, ownedChunks_worker hr]
    | controller => simp only [owned, hr, ownedChunks_controller hr]
  have hlt : ∀ j ∈ before ++ k :: after, j < 2 * s.cfg.workers := fun j hj =>
    lt_of_mem_ownedChunks hv (hchunks ▸ hj)
  have hk : k < 2 * s.cfg.workers := hlt k (by simp)
  obtain ⟨m, hm, hpay⟩ := stampChunks_then hC (fun j hj => hlt j (by simp [hj])) hbefore
  have hread : ∀ y ∈ payloadAddrs s.cfg k, Readable s y ↔ Readable { s with buf := m } y :=
    fun y hy => (readable_of_buf (hpay k y hy)).symm
  have hfault : ∀ x, stampChunk k { s with buf := m } = .error x →
      exec .fxRefresh s = .next (raiseFault 0x10 x s) := fun x hx =>
    exec_fxRefresh_of_error hf hb
      (by rw [hchunks, stampChunks_append hm, stampChunks_of_stamp_error hx])
  refine ⟨fun x hx => ?_, fun hpayload hrace => ?_⟩
  · rw [readFault_eq]
    exact hfault _ (stampChunk_of_read_error (readPayload_unreadable (s := { s with buf := m }) hk hC
      (firstFailing_congr hread hx)))
  · exact hfault _ (stampChunk_race (s := { s with buf := m }) hk hC
      (fun y hy => (hread y hy).mp (hpayload y hy)) hrace)

/-! ### The application's accesses (R145, R146) -/

theorem exec_bufWrite {s : State} {a : Nat} {v : Word} (hf : s.faulted = false) :
    exec (.bufWrite a v) s = settle 0x30 s (do checkAddr s a; cmdWrite a v s) := by
  change execBufWrite a v s = _
  rw [execBufWrite, command_running hf]
  rfl

theorem exec_bufRead {s : State} {a : Nat} (hf : s.faulted = false) :
    exec (.bufRead a) s = settle 0x31 s (do
      checkAddr s a
      let w ← cmdRead s a
      .ok { s with rdData := some w }) := by
  change execBufRead a s = _
  rw [execBufRead, command_running hf]
  rfl

theorem checkAddr_inside {s : State} {a : Nat} (ha : a < bufWords s.cfg) : checkAddr s a = .ok () :=
  require_ok.mpr (decide_eq_true ha)

theorem checkAddr_outside {s : State} {a : Nat} (ha : bufWords s.cfg ≤ a) :
    checkAddr s a = .error ⟨.addrRange, a⟩ :=
  require_error.mpr ⟨decide_eq_false (Nat.not_lt.mpr ha), rfl⟩

/-- Settles O41, by the address and the race on it. -/
theorem bufferWriteStoresOrFaults : Obligations.BufferWriteStoresOrFaults := by
  intro s a v hf
  rw [exec_bufWrite hf]
  refine ⟨fun ha => ?_, fun ha hrace => ?_, fun ha hfree => ?_⟩
  · rw [checkAddr_outside ha]
    rfl
  · have hwrite : cmdWrite a v s = .error ⟨.bufferRace, a⟩ := if_pos hrace
    rw [checkAddr_inside ha, hwrite]
    rfl
  · rw [checkAddr_inside ha, cmdWrite_ok.mpr ⟨hfree, ha, rfl⟩]
    exact ⟨_, rfl, rfl, bufGet_bufSet_same a v s, fun x hx => bufGet_bufSet_other v s hx⟩

/-- Settles O42, by the address, the race on it and the word there. -/
theorem bufferReadReturnsOrFaults : Obligations.BufferReadReturnsOrFaults := by
  intro s a hf
  rw [exec_bufRead hf]
  refine ⟨fun ha => ?_, fun ha hrace => ?_, fun ha hfree hnone => ?_, fun w ha hfree hw => ?_⟩
  · rw [checkAddr_outside ha]
    rfl
  · rw [checkAddr_inside ha, (cmdRead_error ha).mpr (.inl ⟨hrace, rfl⟩)]
    rfl
  · rw [checkAddr_inside ha, (cmdRead_error ha).mpr (.inr ⟨hfree, hnone, rfl⟩)]
    rfl
  · rw [checkAddr_inside ha, cmdRead_ok.mpr ⟨hfree, ha, hw⟩]
    rfl

/-! ### The roles (R147) -/

theorem chipSelect_refused_controller {s : State} (hr : s.cfg.role = .controller) (level : Bool) :
    exec (.csPin level) s = .refused .notEnabled ∧ exec .csGlitch s = .refused .notEnabled ∧
      exec .csIsr s = .refused .notEnabled := by
  have hw : s.cfg.role ≠ .worker := by simp [hr]
  exact ⟨exec_csPin_refused fun h => hw h.1, exec_csGlitch_refused hw,
    exec_csIsr_refused fun h => hw h.1⟩

/-- A step of a controller is no chip-select event. -/
theorem not_chipSelect_of_controller {i : Instr} {s t : State} (hr : s.cfg.role = .controller)
    (h : exec i s = .next t) : (∀ l, i ≠ .csPin l) ∧ i ≠ .csGlitch ∧ i ≠ .csIsr := by
  refine ⟨?_, ?_, ?_⟩
  · rintro l rfl
    simp [(chipSelect_refused_controller hr l).1] at h
  · rintro rfl
    simp [(chipSelect_refused_controller hr true).2.1] at h
  · rintro rfl
    simp [(chipSelect_refused_controller hr true).2.2] at h

theorem chipSelect_kept_controller {i : Instr} {s t : State} (hr : s.cfg.role = .controller)
    (h : exec i s = .next t) :
    t.csPin = s.csPin ∧ t.csIrq = s.csIrq ∧ t.lastLevel = s.lastLevel := by
  obtain ⟨hpin, hglitch, hisr⟩ := not_chipSelect_of_controller hr h
  obtain ⟨-, -, -, -, hp, hq, hl, -⟩ := onlyTheNamedStepsWriteEachElement i s t h
  exact ⟨by simpa [hpin] using hp, by simpa [hpin, hglitch, hisr] using hq, by simpa [hisr] using hl⟩

/-- A worker's FX.TRIGGER does not complete, and its words do not count (R136, R138). -/
theorem ctlLeft_kept_worker {i : Instr} {s t : State} (hr : s.cfg.role = .worker)
    (h : exec i s = .next t) : t.ctlLeft = s.ctlLeft := by
  by_cases htrig : i = .fxTrigger
  · subst htrig
    cases exec_next h with
    | completed _ he =>
      cases he with
      | fxTrigger hc => simp [hr] at hc
    | ignored | raised => rfl
    | read source | readStuck source | readRaised source => cases source
  · cases hlink : isLinkWord i with
    | false => exact ctlLeft_kept h htrig hlink
    | true =>
      obtain ⟨p, rfl⟩ := isLinkWord_iff.mp hlink
      rw [(linkWord_next h).2, if_neg (by simp [hr])]

/-- Settles O43: the gates of the chip-select events and of the trigger ask for the role. -/
theorem rolesRestrictSteps : Obligations.RolesRestrictSteps :=
  ⟨fun _ level hr => chipSelect_refused_controller hr level,
    fun _ _ _ hr h => chipSelect_kept_controller hr h,
    fun _ _ _ hr h0 h => (ctlLeft_kept_worker hr h).trans h0,
    fun _ hr hf => exec_fxTrigger_worker hf hr⟩

end Sys2Proof.Machine
end

section
/-! The tick (R182, R183): what the walk makes of the slots it visits and of the two lists. -/

namespace Sys2Proof.Machine

/-- The walk fires t when it finds REM at most G (R182). -/
def firesOnTick (s : State) (t : Nat) : Bool :=
  (slotAt s t).rem.any fun r => decide (r.toNat ≤ s.cfg.gran)

/-- What the walk makes of a slot it visits (R182). -/
def tickedSlot (c : Config) (x : Slot) : Slot :=
  match x.rem with
  | none => x
  | some r =>
    if r.toNat ≤ c.gran then { x with rem := some 0, st := .fired }
    else { x with rem := some (r - granCount c) }

theorem tickedSlot_of_le {c : Config} {x : Slot} {r : U32} (hr : x.rem = some r)
    (hle : r.toNat ≤ c.gran) : tickedSlot c x = ⟨.fired, some 0, x.rld⟩ := by
  simp [tickedSlot, hr, hle]

theorem tickedSlot_of_lt {c : Config} {x : Slot} {r : U32} (hr : x.rem = some r)
    (hlt : c.gran < r.toNat) : tickedSlot c x = { x with rem := some (r - granCount c) } := by
  simp [tickedSlot, hr, Nat.not_le.mpr hlt]

/-- A timer that does not fire loses exactly G: the subtraction does not wrap (R182). -/
theorem toNat_sub_granCount {c : Config} {r : U32} (hv : configValid c = true)
    (hlt : c.gran < r.toNat) : (r - granCount c).toNat = r.toNat - c.gran := by
  have hg := granCount_toNat hv
  rw [BitVec.toNat_sub_of_le (BitVec.le_def.mpr (by omega)), hg]

/-- u is s after the walk has visited ks: their slots are ticked, and those that fire moved from TLIST to
EXPQ in the walk's order. -/
structure Walked (s : State) (ks : List Nat) (u : State) : Prop where
  frame : ∃ ts, u = { s with
    timers := ts
    tlist := s.tlist.filter fun t => !(decide (t ∈ ks) && firesOnTick s t)
    expq := s.expq ++ ks.filter (firesOnTick s) }
  slots : ∀ t, slotAt u t = if t ∈ ks then tickedSlot s.cfg (slotAt s t) else slotAt s t

theorem Walked.nil (s : State) : Walked s [] s := ⟨⟨s.timers, by simp⟩, by simp⟩

/-- One visit to a listed timer: it is in no other queue (R42), so firing appends it to EXPQ. -/
theorem tickSlot_eq {s : State} {k : Nat} (h : TimerInv s) (hk : k ∈ s.tlist) :
    tickSlot s k = { s with
      timers := s.timers.set k (tickedSlot s.cfg (slotAt s k))
      tlist := s.tlist.filter fun t => !(decide (t ∈ [k]) && firesOnTick s t)
      expq := s.expq ++ [k].filter (firesOnTick s) } := by
  obtain ⟨r, hr⟩ := Option.isSome_iff_exists.mp (h.written k hk).1
  have hexpq : k ∉ s.expq := by simp [h.fired, (h.armed k).mp hk]
  by_cases hle : r.toNat ≤ s.cfg.gran
  · have hfire : firesOnTick s k = true := by simp [firesOnTick, hr, hle]
    have hlist : (s.tlist.filter fun t => !(decide (t ∈ [k]) && firesOnTick s t)) = s.tlist.erase k := by
      rw [h.tlistNodup.erase_eq_filter]
      refine List.filter_congr fun t _ => ?_
      by_cases htk : t = k <;> simp [htk, hfire]
    rw [hlist, tickedSlot_of_le hr hle]
    simp [tickSlot, hr, hle, hfire, enqueueExpq_eq, queued, h.tlistNodup.mem_erase_iff, hexpq, slotSet,
      removeTlist]
  · have hstay : firesOnTick s k = false := by simp [firesOnTick, hr, hle]
    have hlist : (s.tlist.filter fun t => !(decide (t ∈ [k]) && firesOnTick s t)) = s.tlist := by
      refine List.filter_eq_self.mpr fun t _ => ?_
      by_cases htk : t = k <;> simp [htk, hstay]
    rw [hlist, tickedSlot_of_lt hr (Nat.lt_of_not_le hle)]
    simp [tickSlot, hr, hle, hstay, slotSet]

theorem tickSlot_walked {s : State} {k : Nat} (h : TimerInv s) (hk : k ∈ s.tlist) :
    Walked s [k] (tickSlot s k) := by
  have hlt : k < s.timers.length := lt_of_slotAt_ne fun hu => by
    simpa [hu, Slot.unused] using (h.armed k).mp hk
  refine ⟨⟨_, tickSlot_eq h hk⟩, fun t => ?_⟩
  rw [slotAt_of_set hlt (by rw [tickSlot_eq h hk])]
  by_cases htk : t = k <;> simp [htk]

/-- A visit leaves the slots of the timers still to come as they were at entry (R183). -/
theorem Walked.cons {s u v : State} {k : Nat} {ks : List Nat} (hk : k ∉ ks) (h : Walked s [k] u)
    (h' : Walked u ks v) : Walked s (k :: ks) v := by
  obtain ⟨⟨ts, hu⟩, hslots⟩ := h
  obtain ⟨⟨ts', hv⟩, hslots'⟩ := h'
  have hcfg : u.cfg = s.cfg := by rw [hu]
  have hother : ∀ t ≠ k, slotAt u t = slotAt s t := fun t ht => by simp [hslots, ht]
  have hfires : ∀ t ≠ k, firesOnTick u t = firesOnTick s t := fun t ht => by
    rw [firesOnTick, firesOnTick, hother t ht, hcfg]
  have hlist : (u.tlist.filter fun t => !(decide (t ∈ ks) && firesOnTick u t)) =
      s.tlist.filter fun t => !(decide (t ∈ k :: ks) && firesOnTick s t) := by
    have htl : u.tlist = s.tlist.filter fun t => !(decide (t ∈ [k]) && firesOnTick s t) := by rw [hu]
    rw [htl, List.filter_filter]
    refine List.filter_congr fun t _ => ?_
    by_cases htk : t = k
    · simp [htk, hk]
    · simp [htk, hfires t htk]
  have hqueue : u.expq ++ ks.filter (firesOnTick u) = s.expq ++ (k :: ks).filter (firesOnTick s) := by
    have hex : u.expq = s.expq ++ [k].filter (firesOnTick s) := by rw [hu]
    have hrest : ks.filter (firesOnTick u) = ks.filter (firesOnTick s) :=
      List.filter_congr fun t ht => hfires t fun htk => hk (htk ▸ ht)
    rw [hex, hrest, List.append_assoc, ← List.filter_append, List.singleton_append]
  refine ⟨⟨ts', ?_⟩, fun t => ?_⟩
  · rw [hlist, hqueue] at hv
    rw [hv, hu]
  · rw [hslots', hcfg]
    by_cases htk : t = k
    · simp [htk, hk, hslots]
    · simp [htk, hother t htk]

/-- The walk visits each of its timers once (R183), whatever the timers before it did. -/
theorem tickWalk_walked {ks : List Nat} {s : State} (h : TimerInv s) (hnd : ks.Nodup)
    (hks : ∀ k ∈ ks, k ∈ s.tlist) : Walked s ks (ks.foldl tickSlot s) := by
  induction ks generalizing s with
  | nil => exact Walked.nil s
  | cons k ks ih =>
    obtain ⟨hk, hnd'⟩ := List.nodup_cons.mp hnd
    have hvisit := tickSlot_walked h (hks k (List.mem_cons_self ..))
    refine hvisit.cons hk (ih (h.tickSlot k) hnd' fun t ht => ?_)
    have htk : t ≠ k := fun htk => hk (htk ▸ ht)
    obtain ⟨⟨ts, hu⟩, -⟩ := hvisit
    rw [hu]
    simp [htk, hks t (List.mem_cons_of_mem _ ht)]

/-- u is s after one TICK. -/
structure Ticked (s u : State) : Prop where
  frame : u = { s with
    now := s.now + granCount s.cfg
    timers := u.timers
    tlist := s.tlist.filter fun t => !firesOnTick s t
    expq := s.expq ++ s.tlist.filter (firesOnTick s) }
  slots : ∀ t, slotAt u t = if t ∈ s.tlist then tickedSlot s.cfg (slotAt s t) else slotAt s t

/-- TICK is enabled whenever the block is not faulted, and walks TLIST as it stood at entry (R182). -/
theorem exec_tick {s : State} (h : TimerInv s) (hf : s.faulted = false) :
    ∃ u, exec .tick s = .next u ∧ Ticked s u := by
  have hwritten : armedWritten s = true := List.all_eq_true.mpr fun t ht => (h.written t ht).1
  have hexec : exec .tick s =
      .next (s.tlist.foldl tickSlot { s with now := s.now + granCount s.cfg }) := by
    change execTick s = _
    rw [execTick, event_enabled hf rfl, if_pos hwritten]
  obtain ⟨⟨ts, hu⟩, hslots⟩ := tickWalk_walked (s := { s with now := s.now + granCount s.cfg })
    { h with } h.tlistNodup fun _ hk => hk
  have hlist : (s.tlist.filter fun t => !(decide (t ∈ s.tlist) && firesOnTick s t)) =
      s.tlist.filter fun t => !firesOnTick s t :=
    List.filter_congr fun t ht => by simp [ht]
  refine ⟨_, hexec, ?_, hslots⟩
  rw [hu, ← hlist]
  rfl

/-- Settles O53, with the walk over TLIST by induction. -/
theorem tickFiresAndDecrements : Obligations.TickFiresAndDecrements := by
  refine ⟨by decide +kernel, fun s hv h hf => ?_⟩
  obtain ⟨u, hu, hframe, hslots⟩ := exec_tick h hf
  refine ⟨u, hu, hframe, fun t ht => by rw [hslots, if_neg ht], fun t ht r hr => ?_⟩
  rw [hslots, if_pos ht]
  refine ⟨tickedSlot_of_le hr, fun hlt => ⟨_, toNat_sub_granCount hv hlt, ?_⟩⟩
  rw [tickedSlot_of_lt hr hlt, ← (h.armed t).mp ht]

end Sys2Proof.Machine
end

section
/-! The timer commands (R184 to R187): what START, STOP, RESTART and POP make of the slot they name. -/

namespace Sys2Proof.Machine

/-! ### The slot operand -/

theorem checkTimer_inside {s : State} {t : Nat} (ht : t < s.cfg.timerCount) :
    checkTimer s t = .ok () :=
  require_ok.mpr (decide_eq_true ht)

theorem checkTimer_outside {s : State} {t : Nat} (ht : s.cfg.timerCount ≤ t) :
    checkTimer s t = .error ⟨.timerRange, t⟩ :=
  require_error.mpr ⟨decide_eq_false (Nat.not_lt.mpr ht), rfl⟩

/-- A state with slot t rewritten reads the new slot at t and the old ones elsewhere. -/
theorem slots_of_set {s u : State} {t : Nat} {x : Slot} (ht : t < s.timers.length)
    (hu : u.timers = s.timers.set t x) :
    slotAt u t = x ∧ ∀ k, k ≠ t → slotAt u k = slotAt s k :=
  ⟨by rw [slotAt_of_set ht hu, if_pos rfl], fun k hk => by rw [slotAt_of_set ht hu, if_neg hk]⟩

/-! ### Loading a timer (R184, R186) -/

/-- A loaded timer that was idle is armed at the tail of TLIST; any other keeps its state and its place. -/
theorem armIdle_load {s : State} {t : Nat} {x : Slot} (h : TimerInv s) (ht : t < s.cfg.timerCount)
    (hst : x.st = (slotAt s t).st) :
    ∃ u, armIdle t (slotSet t x s) = u ∧
      u = { s with
        timers := u.timers
        tlist := if (slotAt s t).st = .idle then s.tlist ++ [t] else s.tlist } ∧
      slotAt u t = ⟨if (slotAt s t).st = .idle then .armed else (slotAt s t).st, x.rem, x.rld⟩ ∧
      ∀ k, k ≠ t → slotAt u k = slotAt s k := by
  have hlt : t < s.timers.length := by rwa [h.slots]
  obtain ⟨hat, hothers⟩ := slots_of_set (u := armIdle t (slotSet t x s)) hlt
    (by rw [armIdle_slotSet hlt])
  refine ⟨_, rfl, ?_, ?_, hothers⟩
  · rw [armIdle_slotSet hlt, hst]
    by_cases hi : (slotAt s t).st = .idle
    · simp [hi, h.queued_idle hi]
    · simp [hi]
  · rw [hat, ← hst]
    split <;> rfl

theorem exec_tmrStart {s : State} (hf : s.faulted = false) (t : Nat) (p : U32) :
    exec (.tmrStart t p) s = settle 0x20 s (do
      checkTimer s t
      if p.toNat < s.cfg.gran then .ok s
      else .ok (armIdle t (slotSet t { slotAt s t with rem := some p, rld := some p } s))) := by
  change execTmrStart t p s = _
  rw [execTmrStart, command_running hf]
  rfl

/-- An accepted start (R184). -/
theorem exec_tmrStart_accepted {s : State} {t : Nat} {p : U32} (hf : s.faulted = false)
    (ht : t < s.cfg.timerCount) (hp : s.cfg.gran ≤ p.toNat) :
    exec (.tmrStart t p) s =
      .next (armIdle t (slotSet t { slotAt s t with rem := some p, rld := some p } s)) := by
  rw [exec_tmrStart hf, checkTimer_inside ht, if_neg (Nat.not_lt.mpr hp)]
  rfl

/-- Settles O49, by the slot operand, the period and the timer's state. -/
theorem timerStartArmsIdleTimers : Obligations.TimerStartArmsIdleTimers := by
  intro s t p h hf
  refine ⟨fun ht => ?_, fun ht hp => ?_, fun ht hp hi => ?_, fun ht hp hi => ?_⟩
  · rw [exec_tmrStart hf, checkTimer_outside ht]
    rfl
  · rw [exec_tmrStart hf, checkTimer_inside ht, if_pos hp]
    rfl
  all_goals
    obtain ⟨u, hu, hload⟩ := armIdle_load h ht
      (x := { slotAt s t with rem := some p, rld := some p }) rfl
    rw [exec_tmrStart_accepted hf ht hp, hu]
  · exact ⟨u, rfl, by simpa only [if_pos hi] using hload⟩
  · exact ⟨u, rfl, by simpa only [if_neg hi] using hload⟩

theorem exec_tmrRestart {s : State} (hf : s.faulted = false) (t : Nat) :
    exec (.tmrRestart t) s = settle 0x22 s (do
      checkTimer s t
      match (slotAt s t).rld with
      | none => .error ⟨.unwrittenRead, t⟩
      | some p => .ok (armIdle t (slotSet t { slotAt s t with rem := some p } s))) := by
  change execTmrRestart t s = _
  rw [execTmrRestart, command_running hf]
  rfl

/-- Settles O51, by the slot operand and whether RLD was ever written. -/
theorem timerRestartReloads : Obligations.TimerRestartReloads := by
  intro s t h hf
  rw [exec_tmrRestart hf]
  refine ⟨fun ht => ?_, fun ht hr => ?_, fun p ht hr => ?_⟩
  · rw [checkTimer_outside ht]
    rfl
  · rw [checkTimer_inside ht, hr]
    rfl
  · obtain ⟨u, hu, hload⟩ := armIdle_load h ht (x := { slotAt s t with rem := some p }) rfl
    rw [checkTimer_inside ht, hr]
    exact ⟨u, congrArg _ hu, by simpa only [hr] using hload⟩

/-! ### Taking a timer out of its queue (R185, R187) -/

theorem exec_tmrStop {s : State} (hf : s.faulted = false) (t : Nat) :
    exec (.tmrStop t) s = settle 0x21 s (do
      checkTimer s t
      match (slotAt s t).st with
      | .armed => .ok (slotSet t { slotAt s t with st := .idle } (removeTlist t s))
      | .idle => .ok s
      | .fired => .ok s) := by
  change execTmrStop t s = _
  rw [execTmrStop, command_running hf]
  rfl

/-- Settles O50, by the slot operand and the timer's state. -/
theorem timerStopRemovesArmedTimers : Obligations.TimerStopRemovesArmedTimers := by
  intro s t h hf
  rw [exec_tmrStop hf]
  refine ⟨fun ht => ?_, fun ht hst => ?_, fun ht hst => ?_⟩
  · rw [checkTimer_outside ht]
    rfl
  · rw [checkTimer_inside ht]
    cases hst' : (slotAt s t).st with
    | armed => exact absurd hst' hst
    | idle | fired => rfl
  · have herase : s.tlist.erase t = s.tlist.filter (· ≠ t) := by
      rw [h.tlistNodup.erase_eq_filter]
      exact List.filter_congr fun k _ => by by_cases hk : k = t <;> simp [hk]
    rw [checkTimer_inside ht, hst]
    refine ⟨_, rfl, ?_, slots_of_set (s := s) (h.slots ▸ ht) rfl⟩
    rw [← herase]
    rfl

theorem exec_tmrPop {s : State} (hf : s.faulted = false) :
    exec .tmrPop s = settle 0x23 s (match s.expq with
      | [] => .ok { s with popResult := some noSlot }
      | t :: ts => .ok (slotSet t { slotAt s t with st := .idle }
          { s with expq := ts, popResult := some (BitVec.ofNat 32 t) })) := by
  change execTmrPop s = _
  rw [execTmrPop, command_running hf]
  rfl

/-- Settles O52, by the head of EXPQ. -/
theorem timerPopIsFirstInFirstOut : Obligations.TimerPopIsFirstInFirstOut := by
  intro s h hf
  rw [exec_tmrPop hf]
  refine ⟨fun hq => ?_, fun t ts hq => ?_⟩
  · rw [hq]
    rfl
  · have hst : (slotAt s t).st = .fired := (h.fired t).mp (by simp [hq])
    have hlt : t < s.timers.length := lt_of_slotAt_ne fun hu => by simp [hu, Slot.unused] at hst
    rw [hq]
    exact ⟨_, rfl, rfl, slots_of_set (s := s) hlt rfl⟩

end Sys2Proof.Machine
end

section
/-! What a step can do to the timers, said once: `TimerChange`. From it, which step changes a
timer's state and how TLIST changes (R190, R191, R194, R195). -/

namespace Sys2Proof.Machine

/-- `TimerChange s i u`: what instruction i makes of the timers of s. START and RESTART are one case, the load
of a slot. -/
inductive TimerChange (s : State) : Instr → State → Prop
  /-- The slots and TLIST are left alone: no timer step, a fault, a rejected or ignored command. -/
  | none {i : Instr} {u : State} (timers : u.timers = s.timers) (tlist : u.tlist = s.tlist) :
      TimerChange s i u
  /-- R184, R186. -/
  | load {i : Instr} {t : Nat} {x : Slot} (source : (∃ p, i = .tmrStart t p) ∨ i = .tmrRestart t)
      (state : x.st = (slotAt s t).st) : TimerChange s i (armIdle t (slotSet t x s))
  /-- R185. -/
  | stop {t : Nat} (armed : (slotAt s t).st = .armed) :
      TimerChange s (.tmrStop t) (slotSet t { slotAt s t with st := .idle } (removeTlist t s))
  /-- R187. -/
  | pop {t : Nat} {ts : List Nat} {v : Option U32} (head : s.expq = t :: ts) :
      TimerChange s .tmrPop
        (slotSet t { slotAt s t with st := .idle } { s with expq := ts, popResult := v })
  /-- R182. -/
  | tick {n : U32} : TimerChange s .tick (s.tlist.foldl tickSlot { s with now := n })

theorem Effect.timerChange {s u : State} {i : Instr} (he : Effect s i u) : TimerChange s i u := by
  cases he with
  | tmrStart => exact .load (.inl ⟨_, rfl⟩) rfl
  | tmrRestart => exact .load (.inr rfl) rfl
  | tmrStop _ harmed => exact .stop harmed
  | tmrPop hhead => exact .pop hhead
  | tick _ hwalk =>
    rw [← hwalk]
    exact .tick
  | fxTrigger | csSelect =>
    rw [armTransfer_eq]
    exact .none rfl rfl
  | linkWord =>
    rw [countWord_eq, shiftIn_eq]
    exact .none rfl rfl
  | nop | crcInit | crcCompute | crcStamp | crcCheck | fxRefresh | tmrStartShort | tmrStopOther
  | tmrPopEmpty | bufWrite | bufRead | csPin | csGlitch | csNoEdge | csDeselect | dmaTxStep
  | dmaRxStep | dmaTxIsr | dmaRxIsr => exact .none rfl rfl

theorem Taken.timerChange {s u : State} {i : Instr} (h : Taken s i u) : TimerChange s i u := by
  cases h with
  | completed _ he => exact he.timerChange
  | ignored | raised | read | readStuck | readRaised => exact .none rfl rfl

/-! ### The slots -/

theorem slotAt_congr {s u : State} (h : u.timers = s.timers) (t : Nat) : slotAt u t = slotAt s t := by
  rw [slotAt, slotAt, h]

/-- A written slot holds what was written, unless it lies past the last one and nothing was. -/
theorem slotAt_slotSet_or (t : Nat) (x : Slot) (s : State) :
    slotAt (slotSet t x s) t = x ∨ slotAt (slotSet t x s) t = slotAt s t := by
  by_cases ht : t < s.timers.length
  · exact .inl (slotAt_slotSet_same x ht)
  · refine .inr (slotAt_congr ?_ t)
    rw [slotSet_timers, List.set_eq_of_length_le (Nat.le_of_not_lt ht)]

theorem slotSet_state_kept {s : State} {t : Nat} {x : Slot} (hx : x.st = (slotAt s t).st) (k : Nat) :
    (slotAt (slotSet t x s) k).st = (slotAt s k).st := by
  by_cases hk : k = t
  · subst hk
    rcases slotAt_slotSet_or k x s with h | h <;> rw [h]
    exact hx
  · rw [slotAt_slotSet_other x s hk]

theorem slotAt_armIdle_other {t k : Nat} (s : State) (hk : k ≠ t) :
    slotAt (armIdle t s) k = slotAt s k := by
  rw [armIdle_eq]
  split
  · exact slotAt_slotSet_other _ s hk
  · rfl

theorem armIdle_state (t : Nat) (s : State) :
    (slotAt (armIdle t s) t).st = (slotAt s t).st ∨
      ((slotAt s t).st = .idle ∧ (slotAt (armIdle t s) t).st = .armed) := by
  by_cases hi : (slotAt s t).st = .idle
  · have hat : slotAt (armIdle t s) t = slotAt (slotSet t { slotAt s t with st := .armed } s) t :=
      slotAt_congr (by rw [armIdle_eq, if_pos hi, slotSet_timers]) t
    rw [hat]
    rcases slotAt_slotSet_or t { slotAt s t with st := .armed } s with h | h <;> rw [h]
    · exact .inr ⟨hi, rfl⟩
    · exact .inl rfl
  · exact .inl (congrArg Slot.st (slotAt_congr (by rw [armIdle_eq, if_neg hi]) t))

/-- A visit of the walk leaves a timer's state or makes it fired (R182). -/
theorem tickSlot_state (s : State) (k t : Nat) :
    (slotAt (tickSlot s k) t).st = (slotAt s t).st ∨ (slotAt (tickSlot s k) t).st = .fired := by
  unfold tickSlot
  split
  case h_1 => exact .inl rfl
  case h_2 r _ =>
    split
    · rw [enqueueExpq_eq]
      by_cases ht : t = k
      · subst ht
        rcases slotAt_slotSet_or t { slotAt s t with rem := some 0, st := .fired } s with h | h
        · exact .inr (congrArg Slot.st h)
        · exact .inl (congrArg Slot.st h)
      · exact .inl (congrArg Slot.st (slotAt_slotSet_other _ s ht))
    · exact .inl (slotSet_state_kept (x := { slotAt s k with rem := some (r - granCount s.cfg) }) rfl t)

theorem tickWalk_state (ks : List Nat) (s : State) (t : Nat) :
    (slotAt (ks.foldl tickSlot s) t).st = (slotAt s t).st ∨
      (slotAt (ks.foldl tickSlot s) t).st = .fired := by
  induction ks generalizing s with
  | nil => exact .inl rfl
  | cons k ks ih =>
    rw [List.foldl_cons]
    rcases ih (tickSlot s k) with hrest | hrest
    · rw [hrest]
      exact tickSlot_state s k t
    · exact .inr hrest

/-- `StateChange s i t x y`: how instruction i may take timer t from state x to state y. -/
inductive StateChange (s : State) (i : Instr) (t : Nat) : TimerState → TimerState → Prop
  | kept (x : TimerState) : StateChange s i t x x
  | fired (x : TimerState) (source : i = .tick) : StateChange s i t x .fired
  | started (source : (∃ p, i = .tmrStart t p) ∨ i = .tmrRestart t) : StateChange s i t .idle .armed
  | stopped (source : i = .tmrStop t) : StateChange s i t .armed .idle
  | popped (x : TimerState) (source : i = .tmrPop) (head : s.expq.head? = some t) :
      StateChange s i t x .idle

theorem TimerChange.state {s u : State} {i : Instr} (h : TimerChange s i u) (t : Nat) :
    StateChange s i t (slotAt s t).st (slotAt u t).st := by
  cases h with
  | none htimers =>
    rw [slotAt_congr htimers]
    exact .kept _
  | @load _ k x hsource hx =>
    rw [← slotSet_state_kept hx t]
    by_cases ht : t = k
    · subst ht
      rcases armIdle_state t (slotSet t x s) with hkept | ⟨hidle, harmed⟩
      · rw [hkept]
        exact .kept _
      · rw [hidle, harmed]
        exact .started hsource
    · rw [slotAt_armIdle_other _ ht]
      exact .kept _
  | @stop k harmed =>
    by_cases ht : t = k
    · subst ht
      rcases slotAt_slotSet_or t { slotAt s t with st := .idle } (removeTlist t s) with h | h <;> rw [h]
      · rw [harmed]
        exact .stopped rfl
      · exact .kept _
    · rw [slotAt_slotSet_other _ _ ht]
      exact .kept _
  | @pop k ts v hhead =>
    by_cases ht : t = k
    · subst ht
      rcases slotAt_slotSet_or t { slotAt s t with st := .idle }
        { s with expq := ts, popResult := v } with h | h <;> rw [h]
      · exact .popped _ rfl (by rw [hhead, List.head?_cons])
      · exact .kept _
    · rw [slotAt_slotSet_other _ _ ht]
      exact .kept _
  | @tick n =>
    rcases tickWalk_state s.tlist { s with now := n } t with hkept | hfired
    · rw [hkept]
      exact .kept _
    · rw [hfired]
      exact .fired _ rfl

/-! ### TLIST -/

theorem armIdle_tlist (t : Nat) (s : State) :
    (armIdle t s).tlist = s.tlist ++ [t] ∨ (armIdle t s).tlist = s.tlist := by
  rw [armIdle_eq]
  dsimp only
  split
  · exact .inl rfl
  · exact .inr rfl

theorem tickSlot_tlist_sublist (s : State) (k : Nat) : (tickSlot s k).tlist.Sublist s.tlist := by
  unfold tickSlot
  split
  · exact List.Sublist.refl _
  · split
    · rw [enqueueExpq_eq]
      exact List.erase_sublist
    · exact List.Sublist.refl _

theorem tickWalk_tlist_sublist (ks : List Nat) (s : State) :
    (ks.foldl tickSlot s).tlist.Sublist s.tlist := by
  induction ks generalizing s with
  | nil => exact List.Sublist.refl _
  | cons k ks ih => exact (ih (tickSlot s k)).trans (tickSlot_tlist_sublist s k)

/-- TLIST loses members or gains one at its tail: it is in insertion order (R194). -/
theorem TimerChange.tlist {s u : State} {i : Instr} (h : TimerChange s i u) :
    u.tlist.Sublist s.tlist ∨
      ∃ t, u.tlist = s.tlist ++ [t] ∧ ((∃ p, i = .tmrStart t p) ∨ i = .tmrRestart t) := by
  cases h with
  | none _ htlist => exact .inl (htlist ▸ List.Sublist.refl _)
  | @load _ k x hsource _ =>
    rcases armIdle_tlist k (slotSet k x s) with htlist | htlist
    · exact .inr ⟨k, htlist, hsource⟩
    · exact .inl (htlist ▸ List.Sublist.refl _)
  | stop => exact .inl List.erase_sublist
  | pop => exact .inl (List.Sublist.refl _)
  | tick => exact .inl (tickWalk_tlist_sublist _ _)

/-- Settles O56, from the changes of state a step can make and the changes of TLIST. -/
theorem timersChangeStateByNamedStepsOnly : Obligations.TimersChangeStateByNamedStepsOnly := by
  intro i s u h
  have hchange := (exec_next h).timerChange
  refine ⟨fun t hfired => ?_, fun t hne harmed => ?_, hchange.tlist⟩
  all_goals
    have hstate := hchange.state t
    generalize (slotAt u t).st = y at *
    generalize (slotAt s t).st = x at *
  · subst hfired
    cases hstate with
    | kept | fired => exact .inl rfl
    | popped _ hsource hhead => exact .inr ⟨hsource, hhead⟩
  · subst harmed
    cases hstate with
    | kept => exact absurd rfl hne
    | started hsource => exact ⟨rfl, hsource⟩

end Sys2Proof.Machine
end

section
/-! The countdown (R188, R189): an armed timer through the steps that leave it alone and through the
tick that fires it. -/

namespace Sys2Proof.Machine

/-! ### A pending timer -/

/-- Timer t is armed with REM of n. -/
def Pending (s : State) (t n : Nat) : Prop :=
  (slotAt s t).st = .armed ∧ ∃ r, (slotAt s t).rem = some r ∧ r.toNat = n

theorem Pending.congr {s u : State} {t n : Nat} (h : Pending s t n) (hslot : slotAt u t = slotAt s t) :
    Pending u t n := by
  rwa [Pending, hslot]

/-- One TICK fires a pending timer or takes G off it (R182). -/
theorem Pending.tick {s : State} {t n : Nat} (h : Pending s t n) (hv : configValid s.cfg = true)
    (hi : TimerInv s) (hf : s.faulted = false) :
    ∃ u, exec .tick s = .next u ∧
      (n ≤ s.cfg.gran → (slotAt u t).st = .fired ∧ (slotAt u t).rem = some 0 ∧ t ∈ u.expq) ∧
      (s.cfg.gran < n → Pending u t (n - s.cfg.gran)) := by
  obtain ⟨harmed, r, hr, rfl⟩ := h
  obtain ⟨u, hu, hticked⟩ := exec_tick hi hf
  have hslot := hticked.slots t
  rw [if_pos ((hi.armed t).mpr harmed)] at hslot
  have hiu : TimerInv u := timerInv_stepKept.taken hv hi (exec_next hu)
  refine ⟨u, hu, fun hle => ?_, fun hlt => ?_⟩
  · rw [tickedSlot_of_le hr hle] at hslot
    simp [hiu.fired, hslot]
  · rw [tickedSlot_of_lt hr hlt] at hslot
    rw [Pending, hslot]
    exact ⟨harmed, _, rfl, toNat_sub_granCount hv hlt⟩

/-- A step that neither is a TICK nor names the timer leaves a pending timer's slot alone; TMR.POP takes fired
timers only (R189). -/
theorem TimerChange.slotAt_kept {s u : State} {i : Instr} {t : Nat} (h : TimerChange s i u)
    (hi : TimerInv s) (harmed : (slotAt s t).st = .armed) (htick : i ≠ .tick)
    (hleft : i ≠ .tmrStop t ∧ i ≠ .tmrRestart t ∧ ∀ q, i ≠ .tmrStart t q) :
    slotAt u t = slotAt s t := by
  obtain ⟨hstop, hrestart, hstart⟩ := hleft
  cases h with
  | none htimers => exact slotAt_congr htimers t
  | @load _ k x hsource _ =>
    have hk : t ≠ k := by
      rintro rfl
      rcases hsource with ⟨p, hp⟩ | hr
      · exact hstart p hp
      · exact hrestart hr
    rw [slotAt_armIdle_other _ hk, slotAt_slotSet_other _ _ hk]
  | @stop k _ =>
    have hk : t ≠ k := fun hk => hstop (hk ▸ rfl)
    exact slotAt_slotSet_other _ _ hk
  | @pop k _ _ hhead =>
    have hfired : (slotAt s k).st = .fired := (hi.fired k).mp (by simp [hhead])
    have hk : t ≠ k := by
      rintro rfl
      simp [harmed] at hfired
    exact slotAt_slotSet_other _ _ hk
  | tick => exact absurd rfl htick

/-- One step of any kind that leaves the timer alone. -/
theorem Pending.step {s u : State} {i : Instr} {t n : Nat} (h : Pending s t n)
    (hv : configValid s.cfg = true) (hi : TimerInv s)
    (hleft : i ≠ .tmrStop t ∧ i ≠ .tmrRestart t ∧ ∀ q, i ≠ .tmrStart t q)
    (hx : exec i s = .next u) (hlt : List.count .tick [i] * s.cfg.gran < n) :
    Pending u t (n - List.count .tick [i] * s.cfg.gran) := by
  by_cases htick : i = .tick
  · subst htick
    rw [List.count_singleton_self, Nat.one_mul] at hlt ⊢
    obtain ⟨hf, -, -⟩ := event_next (show execTick s = .next u from hx)
    obtain ⟨v, hv', -, hcount⟩ := h.tick hv hi hf
    cases hv'.symm.trans hx
    exact hcount hlt
  · rw [List.count_eq_zero_of_not_mem (by simpa using Ne.symm htick), Nat.zero_mul, Nat.sub_zero]
    exact h.congr ((exec_next hx).timerChange.slotAt_kept hi h.1 htick hleft)

/-- Steps that leave the timer alone take G off it for each TICK among them, while REM stays above 0. -/
theorem Pending.run {is : List Instr} {s u : State} {t n : Nat} (h : Pending s t n)
    (hv : configValid s.cfg = true) (hi : TimerInv s)
    (hleft : ∀ i ∈ is, i ≠ .tmrStop t ∧ i ≠ .tmrRestart t ∧ ∀ q, i ≠ .tmrStart t q)
    (hx : execAll is s = some u) (hlt : is.count .tick * s.cfg.gran < n) :
    Pending u t (n - is.count .tick * s.cfg.gran) ∧ TimerInv u ∧ u.cfg = s.cfg := by
  induction is generalizing s n with
  | nil =>
    cases hx
    simpa using ⟨h, hi⟩
  | cons i is ih =>
    obtain ⟨v, hv', hu⟩ := execAll_cons_some.mp hx
    have hcfg : v.cfg = s.cfg := (exec_next hv').cfg_inputs.1
    have hcount : List.count .tick (i :: is) * s.cfg.gran =
        List.count .tick [i] * s.cfg.gran + is.count .tick * s.cfg.gran := by
      rw [← Nat.add_mul, ← List.count_append, List.singleton_append]
    rw [hcount] at hlt ⊢
    have hstep := h.step hv hi (hleft i (List.mem_cons_self ..)) hv' (by omega)
    obtain ⟨hpending, hiu, hcfg'⟩ := ih hstep (hcfg ▸ hv)
      (timerInv_stepKept.taken hv hi (exec_next hv'))
      (fun j hj => hleft j (List.mem_cons_of_mem _ hj)) hu (by rw [hcfg]; omega)
    rw [hcfg, Nat.sub_sub] at hpending
    exact ⟨hpending, hiu, hcfg'.trans hcfg⟩

/-- Settles O55, by induction over the steps and one TICK more. -/
theorem pendingTimerCountsTicks : Obligations.PendingTimerCountsTicks := by
  intro s u t p is hv hi harmed hp hleft hx hlt
  have hstart : Pending s t p.toNat := ⟨harmed, p, hp, rfl⟩
  obtain ⟨hpending, hiu, hcfg⟩ := hstart.run hv hi hleft hx hlt
  have ⟨harmed', r, hr, hrem⟩ := hpending
  refine ⟨harmed', r, hr, hrem, fun hf => ?_⟩
  obtain ⟨v, htick, hfires, hcounts⟩ := hpending.tick (hcfg ▸ hv) hiu hf
  rw [← hrem, hcfg] at hfires hcounts
  exact ⟨v, htick, hfires, fun hmore => (hcounts hmore).1⟩

/-! ### The period of k ticks (R188) -/

/-- Ticks alone run on without a fault. -/
theorem execAll_ticks {s : State} (hv : configValid s.cfg = true) (hi : TimerInv s)
    (hf : s.faulted = false) (j : Nat) :
    ∃ u, execAll (List.replicate j .tick) s = some u ∧ u.faulted = false := by
  induction j generalizing s with
  | zero => exact ⟨s, rfl, hf⟩
  | succ j ih =>
    obtain ⟨v, hv', hticked⟩ := exec_tick hi hf
    have hfv : v.faulted = false := by rw [hticked.frame, ← hf]
    obtain ⟨u, hu, hfu⟩ := ih ((exec_next hv').cfg_inputs.1 ▸ hv)
      (timerInv_stepKept.taken hv hi (exec_next hv')) hfv
    exact ⟨u, by rw [List.replicate_succ, execAll_cons hv', hu], hfu⟩

/-- An accepted start makes an idle timer pending with its period (R184). -/
theorem pending_of_start {s : State} {t : Nat} {p : U32} (hi : TimerInv s) (hf : s.faulted = false)
    (ht : t < s.cfg.timerCount) (hst : (slotAt s t).st = .idle) (hp : s.cfg.gran ≤ p.toNat) :
    ∃ u, exec (.tmrStart t p) s = .next u ∧ Pending u t p.toNat ∧ u.faulted = false := by
  obtain ⟨-, -, harms, -⟩ := timerStartArmsIdleTimers s t p hi hf
  obtain ⟨u, hu, hframe, hslot, -⟩ := harms ht hp hst
  exact ⟨u, hu, by rw [Pending, hslot]; exact ⟨rfl, p, rfl, rfl⟩, by rw [hframe, ← hf]⟩

/-- A timer pending with n is pending with j·G less after j ticks, none of which fires it. -/
theorem Pending.ticks {s : State} {t n j : Nat} (h : Pending s t n) (hv : configValid s.cfg = true)
    (hi : TimerInv s) (hf : s.faulted = false) (hlt : j * s.cfg.gran < n) :
    ∃ u, execAll (List.replicate j .tick) s = some u ∧ Pending u t (n - j * s.cfg.gran) ∧
      TimerInv u ∧ u.cfg = s.cfg ∧ u.faulted = false := by
  obtain ⟨u, hu, hfu⟩ := execAll_ticks hv hi hf j
  have hleft : ∀ i ∈ List.replicate j Instr.tick,
      i ≠ .tmrStop t ∧ i ≠ .tmrRestart t ∧ ∀ q, i ≠ .tmrStart t q := by
    intro i hmem
    simp [List.eq_of_mem_replicate hmem]
  obtain ⟨hpending, hiu, hcfg⟩ := h.run hv hi hleft hu (by rwa [List.count_replicate_self])
  rw [List.count_replicate_self] at hpending
  exact ⟨u, hu, hpending, hiu, hcfg, hfu⟩

/-- Settles O54: fewer than k ticks leave at least G, and the last one finds exactly G. -/
theorem timerFiresAfterExactlyKTicks : Obligations.TimerFiresAfterExactlyKTicks := by
  intro s t k p hv hi hf ht hst hk hp j hj
  have hgran : 1 ≤ s.cfg.gran := by
    have := (configValid_iff _).mp hv
    omega
  have hperiod : s.cfg.gran ≤ p.toNat := hp ▸ Nat.le_mul_of_pos_left _ hk
  obtain ⟨a, ha, hpa, hfa⟩ := pending_of_start hi hf ht hst hperiod
  have hcfga : a.cfg = s.cfg := (exec_next ha).cfg_inputs.1
  have hia : TimerInv a := timerInv_stepKept.taken hv hi (exec_next ha)
  have hva : configValid a.cfg = true := hcfga ▸ hv
  rw [execAll_cons ha]
  rcases Nat.lt_or_eq_of_le hj with hlt | rfl
  · have hbelow : j * a.cfg.gran < p.toNat := by
      rw [hp, hcfga]
      exact Nat.mul_lt_mul_of_pos_right hlt hgran
    obtain ⟨u, hu, ⟨harmed, hrem⟩, hiu, -, -⟩ := hpa.ticks hva hia hfa hbelow
    rw [hcfga] at hrem
    exact ⟨u, hu, fun _ => ⟨harmed, by simp [hiu.fired, harmed], hrem⟩, fun h => absurd h hlt.ne⟩
  · obtain ⟨m, rfl⟩ := Nat.exists_eq_add_of_le' hk
    rw [Nat.succ_mul] at hp
    obtain ⟨u, hu, hpu, hiu, hcfgu, hfu⟩ := hpa.ticks (j := m) hva hia hfa (by rw [hp, hcfga]; omega)
    obtain ⟨v, hv', hfires, -⟩ := hpu.tick (hcfgu ▸ hva) hiu hfu
    refine ⟨v, ?_, fun h => absurd h (Nat.lt_irrefl _), fun _ => hfires ?_⟩
    · rw [List.replicate_succ', execAll_append, hu, Option.bind_some, execAll_cons hv', execAll]
    · rw [hcfgu, hcfga, hp]
      omega

end Sys2Proof.Machine
end

section
/-! Fault entry and the stuck block (R81, R220, R223 to R225): a fault leaves the latch and nothing else behind,
and with the latch set only a register read and a reset are taken. -/

namespace Sys2Proof.Machine

/-! ### A fault is precise -/

/-- A completion is no fault entry. -/
theorem Effect.faulted_kept {s t : State} {i : Instr} (h : Effect s i t) : t.faulted = s.faulted := by
  cases h with
  | fxTrigger | csSelect => rw [armTransfer_eq]
  | linkWord =>
    rw [countWord_eq, shiftIn_eq]
    rfl
  | tmrStart | tmrRestart =>
    rw [armIdle_eq]
    rfl
  | nop | crcInit | crcCompute | crcStamp | crcCheck | fxRefresh | tmrStartShort | tmrStop
  | tmrStopOther | tmrPopEmpty | tmrPop | bufWrite | bufRead | tick | csPin | csGlitch | csNoEdge
  | csDeselect | dmaTxStep | dmaRxStep | dmaTxIsr | dmaRxIsr => rfl

/-- Settles O18: only a fault entry sets FAULTED, and a fault entry is `raiseFault` by a command, by the receive
handler or by a register read. -/
theorem faultsArePrecise : Obligations.FaultsArePrecise := by
  intro i s t hf h ht
  cases exec_next h with
  | completed _ he => exact absurd (ht.symm.trans he.faulted_kept) (by simp [hf])
  | ignored stuck | readStuck _ _ stuck => exact absurd stuck (by simp [hf])
  | read => exact absurd ht (by simp [hf])
  | raised _ source x =>
    obtain ⟨hlow, hhigh⟩ := faultCode_bounds x.kind
    refine ⟨rfl, hlow, hhigh, fun _ => rfl, fun he => .inl ?_⟩
    exact source.resolve_left (by simp [he])
  | readRaised source =>
    obtain ⟨hlow, hhigh⟩ := faultCode_bounds .unwrittenRead
    exact ⟨rfl, hlow, hhigh, fun hno => absurd source (hno _), fun _ => .inr ⟨_, source⟩⟩

/-! ### What a faulted block takes -/

theorem exec_command_faulted {i : Instr} {s : State} (hi : isEvent i = false)
    (hf : s.faulted = true) : exec i s = .next s := by
  obtain ⟨body, hc⟩ := exec_of_command hi
  rw [hc, command_faulted hf]

theorem exec_event_faulted {i : Instr} {s : State} (hi : isEvent i = true)
    (hr : ∀ a, i ≠ .regRead a) (hf : s.faulted = true) : exec i s = .refused .notEnabled := by
  obtain ⟨en, body, -, he⟩ := exec_of_event hi hr
  rw [he, event_faulted hf]

/-- No word is taken at the command port, whatever its OP (R81). -/
theorem takeCommand_faulted {w : CmdWord} {s : State} (hf : s.faulted = true) :
    takeCommand w s = .next s := by
  unfold takeCommand
  split
  case isTrue => exact command_faulted hf
  case isFalse hl =>
    split
    · rename_i i hd
      exact exec_command_faulted ((isEvent_of_decode hd).trans (Bool.eq_false_of_not_eq_true hl)) hf
    · exact command_faulted hf
    · exact command_faulted hf

/-- A label has a next state only by the step it names. -/
theorem takeLabel_taken {w : CmdWord} {s t : State} (h : takeLabel w s = .next t) :
    ∃ i, Taken s i t := by
  by_cases hw : ∃ i, decode w = .instr i ∧ isEvent i = true
  · obtain ⟨i, hd, he⟩ := hw
    exact ⟨i, exec_next (takeLabel_of_instr hd he ▸ h)⟩
  · rw [takeLabel_of_no_event fun i hd => Bool.eq_false_of_not_eq_true fun he => hw ⟨i, hd, he⟩] at h
    cases h

/-- An instruction taken by a faulted block writes no element of the block (R224). -/
theorem Taken.of_faulted {s t : State} {i : Instr} (h : Taken s i t) (hf : s.faulted = true) :
    ∃ out, t = { s with readOut := out } := by
  cases h with
  | completed running | raised running | readRaised _ _ running =>
    exact absurd running (by simp [hf])
  | ignored | read | readStuck => exact ⟨_, rfl⟩

/-- Settles O19: both gates look at the latch first. -/
theorem faultedBlockIsStuck : Obligations.FaultedBlockIsStuck := by
  refine fun s w rest hv hf => ⟨fun hi => ?_, fun hi i hd he hr => ?_⟩
  · rw [step_cons hv hi]
    exact takeCommand_faulted hf
  · rw [step_cons hv hi, take, takeLabel_of_instr hd he]
    exact exec_event_faulted he hr hf

/-- Settles O20, by the stimulus taken. -/
theorem onlyResetLeavesAFault : Obligations.OnlyResetLeavesAFault := by
  intro s t hf h
  obtain ⟨hv, ⟨-, rfl⟩ | ⟨x, rest, hi, -⟩⟩ := step_next h
  · exact .inl rfl
  · rw [step_cons hv hi] at h
    cases x with
    | command w =>
      cases (takeCommand_faulted (s := { s with inputs := rest }) hf).symm.trans h
      exact .inl rfl
    | label w =>
      obtain ⟨i, ht⟩ := takeLabel_taken h
      obtain ⟨out, rfl⟩ := ht.of_faulted hf
      exact .inl rfl
    | reset => exact .inr ⟨rest, hi⟩

end Sys2Proof.Machine
end

section
/-! The block's own steps run out (R231, R273): each of them takes something off `internalWork`, and as long as
the block is not quiescent one of them has a next state. -/

namespace Sys2Proof.Machine

/-! ### The work left -/

/-- A busy channel has its completion handler still to come, which is one step. -/
def chanWork : Chan → Nat
  | .idle => 0
  | .run => 1
  | .done => 1

theorem chanWork_le_one (ch : Chan) : chanWork ch ≤ 1 := by
  cases ch <;> simp [chanWork]

/-- A bound on the block's own steps from here on: the words TXFIFO has room for, the words RXFIFO holds, a
handler for each busy channel, and for a latched notification its handler and the two handlers of the channels
it may arm. A faulted block takes none of its own steps (R224). -/
def internalWork (s : State) : Nat :=
  if s.faulted then 0
  else s.cfg.txFifoDepth - s.txFifo.length + s.rxFifo.length + chanWork s.txCh + chanWork s.rxCh +
    3 * s.csIrq.toNat

theorem internalWork_faulted {s : State} (hf : s.faulted = true) : internalWork s = 0 := if_pos hf

theorem internalWork_running {s : State} (hf : s.faulted = false) :
    internalWork s = s.cfg.txFifoDepth - s.txFifo.length + s.rxFifo.length + chanWork s.txCh +
      chanWork s.rxCh + 3 * s.csIrq.toNat := if_neg (by simp [hf])

theorem internalWork_le {s : State} (h : s.rxFifo.length ≤ s.cfg.rxFifoDepth) :
    internalWork s ≤ s.cfg.txFifoDepth + s.cfg.rxFifoDepth + 5 := by
  have htx := chanWork_le_one s.txCh
  have hrx := chanWork_le_one s.rxCh
  have hirq := Bool.toNat_le s.csIrq
  unfold internalWork
  split <;> omega

/-! ### Every step of the block's own takes something off it -/

theorem mem_internalSteps {i : Instr} :
    i ∈ internalSteps ↔
      i = .dmaTxStep ∨ i = .dmaRxStep ∨ i = .csIsr ∨ i = .dmaTxIsr ∨ i = .dmaRxIsr := by
  simp [internalSteps]

theorem isEvent_of_internal {i : Instr} (hi : i ∈ internalSteps) : isEvent i = true := by
  revert i
  decide

theorem Effect.internalWork_lt {s t : State} {i : Instr} (he : Effect s i t)
    (hi : i ∈ internalSteps) (hf : s.faulted = false) : internalWork t < internalWork s := by
  rw [internalWork_running hf, internalWork_running (he.faulted_kept.trans hf)]
  rcases mem_internalSteps.mp hi with rfl | rfl | rfl | rfl | rfl
  · cases he with
    | dmaTxStep run room =>
      have hch := chanWork_le_one (chanAfter s.cfg (s.txIdx + 1) s.txCh)
      have hrun : chanWork s.txCh = 1 := congrArg chanWork run
      simp only [List.length_append, List.length_singleton]
      omega
  · cases he with
    | dmaRxStep run avail =>
      have hch := chanWork_le_one (chanAfter s.cfg (s.rxIdx + 1) s.rxCh)
      have hrun : chanWork s.rxCh = 1 := congrArg chanWork run
      have hpos := List.length_pos_iff.mpr avail
      simp only [List.length_tail, bufSet_cfg, bufSet_txFifo, bufSet_txCh, bufSet_csIrq]
      omega
  · cases he with
    | csNoEdge _ irq | csDeselect _ irq => simp [irq]
    | csSelect _ irq =>
      simp only [armTransfer_eq, irq, chanWork, Bool.toNat_true, Bool.toNat_false]
      omega
  · cases he with
    | dmaTxIsr done => simp [done, chanWork]
  · cases he with
    | dmaRxIsr done =>
      simp only [endReception_cfg, endReception_txFifo, endReception_rxFifo, endReception_txCh,
        endReception_rxCh, endReception_csIrq, done, chanWork, List.length_nil]
      omega

theorem internalWork_lt {s t : State} {i : Instr} (hi : i ∈ internalSteps)
    (h : exec i s = .next t) : internalWork t < internalWork s := by
  have hevent := isEvent_of_internal hi
  cases exec_next h with
  | completed running he => exact he.internalWork_lt hi running
  | ignored _ cmd => exact absurd hevent (by simp [cmd])
  | read source | readStuck source | readRaised source =>
    subst source
    exact absurd hi (by simp [mem_internalSteps])
  | raised running source x =>
    obtain rfl := source.resolve_left (by simp [hevent])
    have hdone : s.rxCh = .done := by
      by_contra hne
      rw [exec_dmaRxIsr_refused hne] at h
      cases h
    rw [internalWork_faulted (raiseFault_faulted ..), internalWork_running running, hdone, chanWork]
    omega

theorem length_add_internalWork_le {is : List Instr} {s u : State}
    (his : ∀ i ∈ is, i ∈ internalSteps) (h : execAll is s = some u) :
    is.length + internalWork u ≤ internalWork s := by
  induction is generalizing s with
  | nil =>
    cases h
    simp
  | cons i is ih =>
    obtain ⟨t, ht, hu⟩ := execAll_cons_some.mp h
    obtain ⟨hi, his⟩ := List.forall_mem_cons.mp his
    have hstep := internalWork_lt hi ht
    have hrest := ih his hu
    rw [List.length_cons]
    omega

/-! ### A block at work has a next step -/

theorem Inv.taken {s t : State} {i : Instr} (h : Inv s) (ht : Taken s i t) : Inv t where
  config := ht.cfg_inputs.1 ▸ h.config
  timer := timerInv_stepKept.taken h.config h.timer ht
  transfer := transferInv_stepKept.taken h.config h.transfer ht
  buffer := bufferInv_stepKept.taken h.config h.buffer ht
  diag := diagInv_stepKept.taken h.config h.diag ht
  latch := latchInv_stepKept.taken h.config h.latch ht

/-- The invariants leave an enabled step nothing but a next state. -/
theorem Inv.next_of_enabled {s : State} {i : Instr} (h : Inv s) (he : enabled i s = true) :
    ∃ t, exec i s = .next t := by
  unfold enabled at he
  split at he
  case h_1 t ht => exact ⟨t, ht⟩
  case h_2 ht => exact absurd (exec_fault ht) h.not_stops
  case h_3 => cases he

theorem exists_enabled_of_not_quiescent {s : State} (h : ¬ quiescent s = true) :
    ∃ i ∈ internalSteps, enabled i s = true := by
  simpa [quiescent] using h

theorem Inv.reaches_quiescent {s : State} (h : Inv s) :
    ∃ (is : List Instr) (u : State), (∀ i ∈ is, i ∈ internalSteps) ∧ execAll is s = some u ∧
      quiescent u = true := by
  by_cases hq : quiescent s = true
  · exact ⟨[], s, by simp, rfl, hq⟩
  · obtain ⟨i, hi, he⟩ := exists_enabled_of_not_quiescent hq
    obtain ⟨t, ht⟩ := h.next_of_enabled he
    have hless := internalWork_lt hi ht
    obtain ⟨is, u, his, hu, hend⟩ := (h.taken (exec_next ht)).reaches_quiescent
    exact ⟨i :: is, u, List.forall_mem_cons.mpr ⟨hi, his⟩, (execAll_cons ht).trans hu, hend⟩
termination_by internalWork s

/-- Settles O48: the steps of a run and the work left at its end fit in the work at its start, and taking
enabled steps while there are any comes to an end. -/
theorem internalStepsReachQuiescence : Obligations.InternalStepsReachQuiescence := by
  refine fun s h => ⟨fun is u his hu => ?_, h.reaches_quiescent⟩
  calc is.length ≤ is.length + internalWork u := Nat.le_add_right ..
    _ ≤ internalWork s := length_add_internalWork_le his hu
    _ ≤ s.cfg.txFifoDepth + s.cfg.rxFifoDepth + 5 := internalWork_le h.transfer.rxRoom

end Sys2Proof.Machine
end

section
/-! The external reset (R260, R261): the next state is the reset state of the configuration, whatever the state
before. What of it is not a field's value by definition has a lemma of its own. -/

namespace Sys2Proof.Machine

theorem step_reset {s : State} {rest : List Stimulus} (hv : configValid s.cfg = true)
    (hi : s.inputs = .reset :: rest) :
    step s = .next { State.resetWith s.cfg with inputs := rest } :=
  step_cons hv hi

theorem csPin_resetWith_worker {c : Config} (h : c.role = .worker) :
    (State.resetWith c).csPin = c.csPinInit := by
  simp [State.resetWith, h]

/-- A controller has no CS_PIN, and STATUS reads 1 there (R26, R48). -/
theorem status_csPin_controller {s : State} (h : s.cfg.role = .controller) :
    (status s).getLsbD 13 = true := by
  simp [status_getLsbD, statusCsPin, h]

/-- TST is IDLE, REM and RLD are unwritten in every slot; past the last one `slotAt` reads the same. -/
theorem slotAt_resetWith (c : Config) (k : Nat) : slotAt (State.resetWith c) k = Slot.unused := by
  rw [slotAt, List.getD_eq_getElem?_getD]
  exact List.getElem?_getD_replicate_default_eq ..

/-- Settles O11, row by row of R260's table. -/
theorem resetSetsEveryElement : Obligations.ResetSetsEveryElement := by
  intro s rest hv hi
  exact ⟨_, step_reset hv hi, rfl, rfl, rfl, fun _ => rfl,
    csPin_resetWith_worker, fun hrole => status_csPin_controller hrole, rfl, rfl,
    rfl, rfl, rfl,
    rfl, rfl, rfl, rfl, rfl, rfl,
    rfl, rfl, rfl, rfl, rfl, rfl,
    rfl, rfl, rfl, rfl,
    List.length_replicate, slotAt_resetWith s.cfg,
    rfl, rfl, rfl, rfl,
    rfl, rfl, rfl, rfl⟩

end Sys2Proof.Machine
end
